-- ==== Sys2Proof/Word.lean ====
section
/-! DEFINITION. The word types of the AFU: widths only (00_scope.md R7, R9). -/

namespace Sys2Proof

/-- A register or operand value: 32 bits, unsigned (R7 `XLEN`, R15). -/
abbrev Word := BitVec 32

/-- One byte, used only where a host carries a command word as bytes (R33). -/
abbrev Byte := BitVec 8

/-- A command word: 80 bits (R7 `CMDW`, R40). -/
abbrev Command := BitVec 80

/-- The turn counter's value: 64 bits, unsigned (R7 `TURNW`, R21). -/
abbrev Turn := BitVec 64

/-- A four-bit field of the command word that names a register; legal values 0..7 (R7 `RIDXW`, R40, R45). -/
abbrev RegField := BitVec 4

/-- Four bits that stand for the flags, packed N, Z, C, V in bits 3, 2, 1, 0 (R20). -/
abbrev FlagField := BitVec 4

/-- The index of a register of the bank, 0..7 (R7 `NREG`, R15). -/
abbrev RegIx := Fin 8

end Sys2Proof
end

