-- ==== Sys2Proof/Config.lean ====
section
/-! DEFINITION. What is fixed for the machine (00_scope.md R7). Every parameter has the one value the spec gives and none is
left open (92_eei_decisions.md, opening), so there is no free constant here: the one open value, the draw of RAND, is an
input pin (10_state.md R26). The widths of R7 are the types of Sys2Proof/Word.lean. -/

namespace Sys2Proof

/-- R7 `RESETVAL`: the value of every register after reset, 100 (R30). -/
abbrev Config.resetVal : Word := 100

end Sys2Proof
end

