-- ==== Sys2Proof/Syntax.lean ====
section
/-! DEFINITION. The commands of the AFU, one constructor per row of spec/opcode_table.json (30_encoding.md R42). -/

namespace Sys2Proof

/-- A command with the fields its row of R43 uses, each field at its width in the command word (R40). A register field may
hold 8..15, which no command may use (R45): WellFormed says so. -/
inductive Instr where
  /-- ADD rd, k (R61). -/
  | add (rd : RegField) (imm : Word)
  /-- SUB rd, k (R64). -/
  | sub (rd : RegField) (imm : Word)
  /-- MUL rd, rs (R67). -/
  | mul (rd rs : RegField)
  /-- MOV rd, k (R73). -/
  | mov (rd : RegField) (imm : Word)
  /-- RAND rd, a, b with `a` the field `imm` and `b` the field `imm2` (R74). -/
  | rand (rd : RegField) (imm imm2 : Word)
  /-- RESET (R77). -/
  | reset
  /-- WREG rd, v (R78). -/
  | wreg (rd : RegField) (imm : Word)
  /-- WFLG fm, f with `f` the field `imm[3:0]` (R79). -/
  | wflg (fm f : FlagField)
  deriving DecidableEq, Repr

end Sys2Proof
end

