-- ==== Sys2Proof/Machine/State.lean ====
section
/-! DEFINITION. The state of the AFU (10_state.md R13 to R30), the reasons a step can stop, and the state after reset. -/

namespace Sys2Proof.Machine

/-- The flag store: four independent bits (R17). -/
structure Flags where
  n : Bool
  z : Bool
  c : Bool
  v : Bool
  deriving DecidableEq, Repr

/-- The status a command ends with (60_exceptions.md R82). -/
inductive Status where
  /-- 0: the command executed. -/
  | ok
  /-- 1: an allocated opcode with a must-be-zero bit set or a register field above 7 (R44, R45). -/
  | usage
  /-- 2: an unallocated opcode (R46). -/
  | unrecognized
  /-- 3: RAND with a drawn value outside its range (R76). -/
  | rngRange
  deriving DecidableEq, Repr

/-- The input pins at one rising edge of `clk`, as the host drives them (R28). Inputs, not state of the AFU (R13, R26): every
value of each is possible. -/
structure Pins where
  /-- `rst`: the synchronous reset (R98). -/
  rst : Bool
  /-- `cmd_valid`: the host presents a command word. -/
  cmdValid : Bool
  /-- `cmd_word`: the command word (R40). -/
  cmdWord : Command
  /-- `rng_value`: the random value d (R26). -/
  rngValue : Word
  deriving DecidableEq, Repr

/-- A host that presents nothing: `rst = 0` and `cmd_valid = 0`. The two data pins are not read at such an edge. DESIGN CHOICE
(log entry 3): they are 0. -/
def Pins.idle : Pins := { rst := false, cmdValid := false, cmdWord := 0, rngValue := 0 }

/-- The architectural state `(r[0..7], F, turn)` (R13), the response registers that R101 writes, and the host's inputs made
plain data: the pins of the coming edge and those of the edges after it (log entry 3). -/
structure State where
  /-- `r[0]` .. `r[7]` (R15). -/
  regs : Vector Word 8
  /-- F (R17). -/
  flags : Flags
  /-- `turn` (R21). -/
  turn : Turn
  /-- `rsp_valid` (R29). -/
  rspValid : Bool
  /-- `rsp_status` (R29); it has a meaning only while `rsp_valid` is 1. -/
  rspStatus : Status
  /-- `rsp_zeroed` as a register index or `none` (R25, R29); it has a meaning only while `rsp_valid` is 1. -/
  rspZeroed : Option RegIx
  /-- The input pins of the coming edge (R28). -/
  pins : Pins
  /-- The input pins of the edges after it, the nearest first. -/
  later : List Pins
  deriving DecidableEq, Repr

/-- There is no fault: no error of the AFU stops it ("A model must not add a fault state that stops the AFU", R86). -/
inductive Fault where
  deriving DecidableEq, Repr

/-- Why a step has no meaning. -/
inductive Refusal where
  /-- Raised only by an arm of `exec` whose instruction has no meaning yet; safe, since nothing is claimed of it. No arm of
  this model raises it. -/
  | notModelled (mnemonic : String)
  deriving DecidableEq, Repr

/-- What a step or a meaning answers. -/
abbrev Result := Host.Outcome State Fault Refusal

/-- All registers at `RESETVAL` (R30). -/
def resetRegs : Vector Word 8 := Vector.replicate 8 Config.resetVal

/-- All flags 0 (R30). -/
def resetFlags : Flags := { n := false, z := false, c := false, v := false }

/-- The state at power-up and after reset (R30, R99): registers 100, flags 0, turn 0, no response. DESIGN CHOICE (log entry 1):
`rsp_status` and `rsp_zeroed`, to which R30 gives no meaning here, hold OK and none. DESIGN CHOICE (log entry 3): the host
presents nothing. -/
def State.reset : State where
  regs := resetRegs
  flags := resetFlags
  turn := 0
  rspValid := false
  rspStatus := .ok
  rspZeroed := none
  pins := Pins.idle
  later := []

end Sys2Proof.Machine
end

