-- ==== Sys2Proof/Machine/Flags.lean ====
section
/-! DEFINITION. The flag generators (40_arith.md R60 to R69, 41_move.md R73) and the packing of the flags (10_state.md R20). -/

namespace Sys2Proof.Machine

/-- R10: the sign of a 32-bit value is its bit 31. -/
def signBit (x : Word) : Bool := x.getLsbD 31

/-- R10: the signed reading, `x` when bit 31 is 0 and `x - 2^32` when it is 1. -/
def sint (x : Word) : Int := if signBit x then (x.toNat : Int) - 2 ^ 32 else (x.toNat : Int)

/-- R60, R73: N is bit 31 of the result. -/
def negFlag (res : Word) : Bool := signBit res

/-- R60, R73: Z is 1 iff the result is 0. -/
def zeroFlag (res : Word) : Bool := decide (res = 0)

/-- R62: the unsigned sum without truncation exceeds `2^32 - 1`. -/
def addCarry (a b : Word) : Bool := decide (a.toNat + b.toNat > 2 ^ 32 - 1)

/-- R63: the operands have one sign and the result the other. -/
def addOverflow (a b res : Word) : Bool := (signBit a == signBit b) && (signBit res != signBit a)

/-- R65: no borrow. -/
def subCarry (a b : Word) : Bool := decide (a.toNat ≥ b.toNat)

/-- R66: the operands differ in sign, and the minuend and the result do. -/
def subOverflow (a b res : Word) : Bool := (signBit a != signBit b) && (signBit a != signBit res)

/-- R68: the full unsigned product exceeds `2^32 - 1`. -/
def mulCarry (a b : Word) : Bool := decide (a.toNat * b.toNat > 2 ^ 32 - 1)

/-- R69: the exact signed product is outside `[-2^31, 2^31 - 1]`. -/
def mulOverflow (a b : Word) : Bool :=
  !decide (-2 ^ 31 ≤ sint a * sint b ∧ sint a * sint b ≤ 2 ^ 31 - 1)

/-- R61: the flags of ADD. -/
def addFlags (a b res : Word) : Flags :=
  { n := negFlag res, z := zeroFlag res, c := addCarry a b, v := addOverflow a b res }

/-- R64: the flags of SUB. -/
def subFlags (a b res : Word) : Flags :=
  { n := negFlag res, z := zeroFlag res, c := subCarry a b, v := subOverflow a b res }

/-- R67: the flags of MUL. -/
def mulFlags (a b res : Word) : Flags :=
  { n := negFlag res, z := zeroFlag res, c := mulCarry a b, v := mulOverflow a b }

/-- R73, R74: the flags of a moved value; C and V are always written as 0. -/
def moveFlags (res : Word) : Flags :=
  { n := negFlag res, z := zeroFlag res, c := false, v := false }

/-- R20: `FLAGS[3] = N`, `[2] = Z`, `[1] = C`, `[0] = V`. -/
def packFlags (f : Flags) : FlagField :=
  BitVec.ofBool f.n ++ BitVec.ofBool f.z ++ BitVec.ofBool f.c ++ BitVec.ofBool f.v

/-- R79: each flag whose mask bit is 1 takes its value bit, the others keep theirs. -/
def mergeFlags (fm f : FlagField) (old : Flags) : Flags where
  n := if fm.getLsbD 3 then f.getLsbD 3 else old.n
  z := if fm.getLsbD 2 then f.getLsbD 2 else old.z
  c := if fm.getLsbD 1 then f.getLsbD 1 else old.c
  v := if fm.getLsbD 0 then f.getLsbD 0 else old.v

end Sys2Proof.Machine
end

