-- ==== Sys2Proof/WellFormed.lean ====
section
/-! DEFINITION. Which commands are legal (30_encoding.md R45): every register field names a register 0..7. All other fields
are legal at every value (R41; opcode_table.json "legal"). -/

namespace Sys2Proof

/-- R45: a register field is legal when its value is 0..7. -/
def regFieldOk (f : RegField) : Bool := decide (f.toNat < 8)

/-- The checks of a command's fields, one per register field it uses (R43, R45). -/
def Instr.wf : Instr → Bool
  | .add rd _ => regFieldOk rd
  | .sub rd _ => regFieldOk rd
  | .mul rd rs => regFieldOk rd && regFieldOk rs
  | .mov rd _ => regFieldOk rd
  | .rand rd _ _ => regFieldOk rd
  | .reset => true
  | .wreg rd _ => regFieldOk rd
  | .wflg _ _ => true

/-- A command is well formed when its checks pass. -/
abbrev WellFormed (i : Instr) : Prop := i.wf = true

end Sys2Proof
end

