-- ==== Sys2Proof/Decode.lean ====
section
/-! DEFINITION. The command word (30_encoding.md R40 to R48): the decoder, total on every 80-bit word and rejecting by name,
and after it the encoder; then the ten-byte form of a word (20_memory.md R33). -/

namespace Sys2Proof

/-! ### Fields (R40) -/

/-- `w[79:76]`: the opcode. -/
def fieldOp (w : Command) : BitVec 4 := w.extractLsb' 76 4

/-- `w[75:72]`: the destination register field. -/
def fieldRd (w : Command) : RegField := w.extractLsb' 72 4

/-- `w[71:68]`: the source register field. -/
def fieldRs (w : Command) : RegField := w.extractLsb' 68 4

/-- `w[67:64]`: the flag write mask. -/
def fieldFm (w : Command) : FlagField := w.extractLsb' 64 4

/-- `w[63:32]`: the second immediate. -/
def fieldImm2 (w : Command) : Word := w.extractLsb' 32 32

/-- `w[31:0]`: the immediate. -/
def fieldImm (w : Command) : Word := w.extractLsb' 0 32

/-- `imm[3:0]`: the flag values of WFLG. -/
def fieldFlags (w : Command) : FlagField := w.extractLsb' 0 4

/-! ### Opcodes and patterns (R42, R43) -/

/-- The allocated opcodes (R42). -/
inductive Opcode where
  | add | sub | mul | mov | rand | reset | wreg | wflg
  deriving DecidableEq, Repr

/-- R42, read from the word: 0x1 to 0x8 are allocated, 0x0 and 0x9 to 0xF are not (R46). -/
def opcodeOf (op : BitVec 4) : Option Opcode :=
  match op.toNat with
  | 0x1 => some .add
  | 0x2 => some .sub
  | 0x3 => some .mul
  | 0x4 => some .mov
  | 0x5 => some .rand
  | 0x6 => some .reset
  | 0x7 => some .wreg
  | 0x8 => some .wflg
  | _ => none

/-- R43, the column "match". -/
def rowMatch : Opcode → Command
  | .add => 0x10000000000000000000
  | .sub => 0x20000000000000000000
  | .mul => 0x30000000000000000000
  | .mov => 0x40000000000000000000
  | .rand => 0x50000000000000000000
  | .reset => 0x60000000000000000000
  | .wreg => 0x70000000000000000000
  | .wflg => 0x80000000000000000000

/-- R43, the column "mask": the opcode and every must-be-zero bit. -/
def rowMask : Opcode → Command
  | .add => 0xF0FFFFFFFFFF00000000
  | .sub => 0xF0FFFFFFFFFF00000000
  | .mul => 0xF00FFFFFFFFFFFFFFFFF
  | .mov => 0xF0FFFFFFFFFF00000000
  | .rand => 0xF0FF0000000000000000
  | .reset => 0xFFFFFFFFFFFFFFFFFFFF
  | .wreg => 0xF0FFFFFFFFFF00000000
  | .wflg => 0xFFF0FFFFFFFFFFFFFFF0

/-- R43, the column "rd": the commands that use the field (R45 names them). -/
def usesRd : Opcode → Bool
  | .add | .sub | .mul | .mov | .rand | .wreg => true
  | .reset | .wflg => false

/-- R43, the column "rs": MUL alone uses the field. -/
def usesRs : Opcode → Bool
  | .mul => true
  | .add | .sub | .mov | .rand | .reset | .wreg | .wflg => false

/-! ### The decoder (R48) -/

/-- Why a command word names no command. Each is answered by a status, never by a stop (R83, R85). -/
inductive DecodeError where
  /-- R46: the opcode is unallocated; status UNRECOGNIZED. -/
  | unrecognized
  /-- R44: a must-be-zero bit is set; status USAGE. -/
  | mustBeZero
  /-- R45: a register field the command uses holds 8..15; status USAGE. -/
  | registerRange
  deriving DecidableEq, Repr

/-- The command of an allocated opcode with the fields its row of R43 uses (R41: unchanged). -/
def commandOf (o : Opcode) (w : Command) : Instr :=
  match o with
  | .add => .add (fieldRd w) (fieldImm w)
  | .sub => .sub (fieldRd w) (fieldImm w)
  | .mul => .mul (fieldRd w) (fieldRs w)
  | .mov => .mov (fieldRd w) (fieldImm w)
  | .rand => .rand (fieldRd w) (fieldImm w) (fieldImm2 w)
  | .reset => .reset
  | .wreg => .wreg (fieldRd w) (fieldImm w)
  | .wflg => .wflg (fieldFm w) (fieldFlags w)

/-- R48: the checks in the spec's order; the first that fails decides (R84). -/
def decode (w : Command) : Except DecodeError Instr :=
  match opcodeOf (fieldOp w) with
  | none => .error .unrecognized
  | some o =>
    if w &&& rowMask o ≠ rowMatch o then .error .mustBeZero
    else if usesRd o && !regFieldOk (fieldRd w) then .error .registerRange
    else if usesRs o && !regFieldOk (fieldRs w) then .error .registerRange
    else .ok (commandOf o w)

/-! ### The encoder -/

/-- R40: the six fields side by side, the opcode most significant. -/
def packFields (op : BitVec 4) (rd rs : RegField) (fm : FlagField) (imm2 imm : Word) : Command :=
  op ++ rd ++ rs ++ fm ++ imm2 ++ imm

/-- The command word of a command: the opcode of R42, the fields of R43, zeros in the fields it does not use. -/
def encode : Instr → Command
  | .add rd imm => packFields 0x1 rd 0 0 0 imm
  | .sub rd imm => packFields 0x2 rd 0 0 0 imm
  | .mul rd rs => packFields 0x3 rd rs 0 0 0
  | .mov rd imm => packFields 0x4 rd 0 0 0 imm
  | .rand rd imm imm2 => packFields 0x5 rd 0 0 imm2 imm
  | .reset => packFields 0x6 0 0 0 0 0
  | .wreg rd imm => packFields 0x7 rd 0 0 0 imm
  | .wflg fm f => packFields 0x8 0 0 fm 0 (f.setWidth 32)

/-! ### A word carried as bytes (R33) -/

/-- R33: byte j of the ten is `w[8j+7:8j]`, least significant byte first. -/
def bytesOfCommand (w : Command) : List Byte :=
  (List.range 10).map fun j => w.extractLsb' (8 * j) 8

/-- Why a list of bytes holds no command. -/
inductive ByteError where
  /-- Fewer than ten bytes: no command word is there (R47: every command word is 80 bits). -/
  | tooShort
  /-- The ten bytes are a command word that the decoder rejects. -/
  | word (e : DecodeError)
  deriving DecidableEq, Repr

/-- The command at the head of a list of bytes and the bytes after it, total on every list. -/
def decodeBytes (bs : List Byte) : Except ByteError (Instr × List Byte) :=
  match bs with
  | b0 :: b1 :: b2 :: b3 :: b4 :: b5 :: b6 :: b7 :: b8 :: b9 :: rest =>
    match decode (b9 ++ b8 ++ b7 ++ b6 ++ b5 ++ b4 ++ b3 ++ b2 ++ b1 ++ b0) with
    | .ok i => .ok (i, rest)
    | .error e => .error (.word e)
  | _ => .error .tooShort

/-! ### The opcode table's own numbering -/

/-- The command word whose low `nbits` bits are `w`, the bits above them zero. -/
def commandOfTable (nbits w : Nat) : Command := BitVec.ofNat 80 (w % 2 ^ nbits)

/-- The command the decoder reads from a row of spec/opcode_table.json: bit 0 of the row is bit 0 of the word. -/
def decodeTableWord (nbits w : Nat) : Option Instr := (decode (commandOfTable nbits w)).toOption

end Sys2Proof
end

