-- ==== Sys2Proof/Machine/Ops.lean ====
section
/-! DEFINITION. The named operations on the state: the register bank, the response, the commit of a computing command
(40_arith.md R59), and a command turned away (60_exceptions.md R82, R83). There is no exception to take and none to return
from (R85, R86): a status in the response stands in their place. -/

namespace Sys2Proof.Machine

/-- `r[i]` (R11): a whole register (R35); none is hardwired (R15). -/
def State.readReg (s : State) (i : RegIx) : Word := s.regs[i]

/-- `r[i] <- v` (R11). -/
def State.writeReg (s : State) (i : RegIx) (v : Word) : State := { s with regs := s.regs.set i v }

/-- `F <- (n, z, c, v)` (R11). -/
def State.setFlags (s : State) (f : Flags) : State := { s with flags := f }

/-- `turn <- (turn + 1) mod 2^64` (R21, R22). -/
def State.countTurn (s : State) : State := { s with turn := s.turn + 1 }

/-- The bank at its reset values: registers 100, flags 0, turn 0 (R30, R77, R98). -/
def State.resetBank (s : State) : State := { s with regs := resetRegs, flags := resetFlags, turn := 0 }

/-- `respond(status, zeroed)` (R11): the response that R101 registers. -/
def State.respond (s : State) (st : Status) (zeroed : Option RegIx) : State :=
  { s with rspValid := true, rspStatus := st, rspZeroed := zeroed }

/-- `refuse(status)` (R11): a response with no state written and no zero event (R83). -/
def State.refuse (s : State) (st : Status) : State := s.respond st none

/-- `rsp_valid <- 0` (R101): no command was accepted at the edge. `rsp_status` and `rsp_zeroed` are not written there; they
keep their values (DEDUCED, log entry 2). -/
def State.dropResponse (s : State) : State := { s with rspValid := false }

/-- R25, R59: the zero event of a computing command with status OK. -/
def zeroEvent (rd : RegIx) (res : Word) : Option RegIx := if res = 0 then some rd else none

/-- `commit(rd, res, n, z, c, v)` (R59): how every computing command ends. -/
def State.commit (s : State) (rd : RegIx) (res : Word) (f : Flags) : State :=
  (((s.writeReg rd res).setFlags f).countTurn).respond .ok (zeroEvent rd res)

/-- The status of a word that names no command (R44, R45, R46). -/
def statusOf : DecodeError → Status
  | .unrecognized => .unrecognized
  | .mustBeZero => .usage
  | .registerRange => .usage

/-- The host's pins move on to the next edge; a host with nothing more to present is idle (log entry 3). -/
def State.advancePins (s : State) : State :=
  match s.later with
  | [] => { s with pins := Pins.idle }
  | p :: ps => { s with pins := p, later := ps }

/-- The state with a host that will drive the given pins, the first at the coming edge. -/
def State.driven (s : State) (ps : List Pins) : State := ({ s with later := ps }).advancePins

/-- The pins of an edge at which a command word is accepted with the draw d. -/
def Pins.command (w : Command) (d : Word) : Pins :=
  { rst := false, cmdValid := true, cmdWord := w, rngValue := d }

/-- The state in which the coming edge accepts the word `w`; the draw and the later edges are as they were. -/
def State.present (s : State) (w : Command) : State := { s with pins := Pins.command w s.pins.rngValue }

end Sys2Proof.Machine
end

