-- ==== Sys2Proof/Machine/Operands.lean ====
section
/-! DEFINITION. The operand forms (30_encoding.md R40, R41, R45). Immediates and the flag mask are used exactly as they stand
(R41); a register field is an index 0..7 or a usage error (R45). -/

namespace Sys2Proof.Machine

/-- The register a field names, when it names one (R45). -/
def regIndex (f : RegField) : Option RegIx :=
  if h : f.toNat < 8 then some ⟨f.toNat, h⟩ else none

/-- A command goes on with the register its field names; a field 8..15 is status USAGE with nothing changed (R45). The
decoder makes the same check first (R48), so a decoded command never takes the second branch. -/
def withReg (f : RegField) (s : State) (k : RegIx → Result) : Result :=
  match regIndex f with
  | some i => k i
  | none => .next (s.refuse .usage)

/-- R74: the lower of RAND's two bounds, which come in either order. -/
def rangeLo (a b : Word) : Word := if a.toNat ≤ b.toNat then a else b

/-- R74: the higher of RAND's two bounds. -/
def rangeHi (a b : Word) : Word := if a.toNat ≤ b.toNat then b else a

/-- R74, R76: the draw lies in the closed interval of the two bounds. -/
def drawInRange (a b d : Word) : Bool :=
  decide ((rangeLo a b).toNat ≤ d.toNat) && decide (d.toNat ≤ (rangeHi a b).toNat)

end Sys2Proof.Machine
end

