-- ==== Sys2Proof/Machine/Arith.lean ====
section
/-! DEFINITION. The arithmetic commands ADD, SUB, MUL (40_arith.md). Word arithmetic is modulo 2^32 (R71). -/

namespace Sys2Proof.Machine

/-- ADD rd, k (R61). -/
def execAdd (rd : RegField) (imm : Word) (s : State) : Result :=
  withReg rd s fun d =>
    let a := s.readReg d
    let res := a + imm
    .next (s.commit d res (addFlags a imm res))

/-- SUB rd, k (R64). -/
def execSub (rd : RegField) (imm : Word) (s : State) : Result :=
  withReg rd s fun d =>
    let a := s.readReg d
    let res := a - imm
    .next (s.commit d res (subFlags a imm res))

/-- MUL rd, rs (R67): both factors are read before the result is written, also when the registers are one (R70). -/
def execMul (rd rs : RegField) (s : State) : Result :=
  withReg rd s fun d =>
    withReg rs s fun e =>
      let a := s.readReg d
      let b := s.readReg e
      let res := a * b
      .next (s.commit d res (mulFlags a b res))

end Sys2Proof.Machine
end

