-- ==== Sys2Proof/Machine/Bank.lean ====
section
/-! DEFINITION. The bank control commands RESET, WREG, WFLG (42_bank.md). None counts a turn or reports a zero event. -/

namespace Sys2Proof.Machine

/-- RESET (R77). -/
def execReset (s : State) : Result := .next (s.resetBank.respond .ok none)

/-- WREG rd, v (R78). -/
def execWreg (rd : RegField) (imm : Word) (s : State) : Result :=
  withReg rd s fun d => .next ((s.writeReg d imm).respond .ok none)

/-- WFLG fm, f (R79). -/
def execWflg (fm f : FlagField) (s : State) : Result :=
  .next ((s.setFlags (mergeFlags fm f s.flags)).respond .ok none)

end Sys2Proof.Machine
end

