-- ==== Sys2Proof/Machine/Move.lean ====
section
/-! DEFINITION. The move path MOV and RAND (41_move.md). -/

namespace Sys2Proof.Machine

/-- MOV rd, k (R73). -/
def execMov (rd : RegField) (imm : Word) (s : State) : Result :=
  withReg rd s fun d => .next (s.commit d imm (moveFlags imm))

/-- RAND rd, a, b (R74): the draw is the pin `rng_value` at acceptance (R26), an input of which nothing is assumed; outside
the range the command ends with RNG_RANGE and writes nothing (R76). -/
def execRand (rd : RegField) (imm imm2 : Word) (s : State) : Result :=
  withReg rd s fun d =>
    let draw := s.pins.rngValue
    if drawInRange imm imm2 draw then .next (s.commit d draw (moveFlags draw))
    else .next (s.refuse .rngRange)

end Sys2Proof.Machine
end

