-- ==== Sys2Proof/Machine/Dispatch.lean ====
section
/-! DEFINITION. One arm per command (30_encoding.md R48, the case at its end). -/

namespace Sys2Proof.Machine

def exec (i : Instr) (s : State) : Host.Outcome State Fault Refusal :=
  match i with
  | .add rd imm => Sys2Proof.Machine.execAdd rd imm s
  | .sub rd imm => Sys2Proof.Machine.execSub rd imm s
  | .mul rd rs => Sys2Proof.Machine.execMul rd rs s
  | .mov rd imm => Sys2Proof.Machine.execMov rd imm s
  | .rand rd imm imm2 => Sys2Proof.Machine.execRand rd imm imm2 s
  | .reset => Sys2Proof.Machine.execReset s
  | .wreg rd imm => Sys2Proof.Machine.execWreg rd imm s
  | .wflg fm f => Sys2Proof.Machine.execWflg fm f s

end Sys2Proof.Machine
end

