-- ==== Sys2Proof/Machine/Clock.lean ====
section
/-! DEFINITION. The rising edge of `clk` (70_reset_and_hazards.md R101). -/

namespace Sys2Proof.Machine

/-- `Step(S, cmd_word, rng_value)` (R14, R48): the decoded command's meaning, or the status of a word that names none. -/
def acceptWord (s : State) : Result :=
  match decode s.pins.cmdWord with
  | .ok i => exec i s
  | .error e => .next (s.refuse (statusOf e))

/-- R101's three cases: reset wins, then a presented command (`cmd_ready` is 1 whenever `rst` is 0), else an idle edge. -/
def edgeEffect (s : State) : Result :=
  if s.pins.rst then .next s.resetBank.dropResponse
  else if s.pins.cmdValid then acceptWord s
  else .next s.dropResponse

/-- One edge: its effect, and the host's pins move on. -/
def clockEdge (s : State) : Result :=
  match edgeEffect s with
  | .next t => .next t.advancePins
  | .fault r => .fault r
  | .refused r => .refused r

end Sys2Proof.Machine
end

