-- ==== Sys2Proof/Machine/Step.lean ====
section
/-! DEFINITION. One step of the machine: one rising edge of `clk` (70_reset_and_hazards.md R101). -/

namespace Sys2Proof.Machine

/-- One rising edge of `clk` (R101). -/
def step (s : State) : Host.Outcome State Fault Refusal := clockEdge s

/-- The state in which the next step accepts the word of a row of spec/opcode_table.json. The AFU fetches nothing (R23): the
host presents the word on `cmd_word` (log entry 4). -/
def State.withFetchWord (s : State) (nbits w : Nat) : State := s.present (commandOfTable nbits w)

end Sys2Proof.Machine
end

