-- ==== Sys2Proof/Machine/Ports.lean ====
section
/-! DEFINITION. The output ports (10_state.md R28, 42_bank.md R80): functions of the state and the pins, without effect. -/

namespace Sys2Proof.Machine

/-- The output ports of R28. -/
structure OutPorts where
  cmdReady : Bool
  rngLo : Word
  rngHi : Word
  rspValid : Bool
  rspStatus : BitVec 2
  rspZeroed : BitVec 8
  snapRegs : Vector Word 8
  snapFlags : FlagField
  snapTurn : Turn
  deriving DecidableEq, Repr

/-- R82: the code of a status. -/
def statusCode : Status → BitVec 2
  | .ok => 0
  | .usage => 1
  | .unrecognized => 2
  | .rngRange => 3

/-- R28, R101: bit i is 1 iff the zero event is register i; all 0 for `none`. -/
def oneHot : Option RegIx → BitVec 8
  | none => 0
  | some i => BitVec.ofNat 8 (2 ^ i.val)

/-- R28: the word on `cmd_word` has RAND's opcode, whatever its other bits. -/
def hasRandOpcode (w : Command) : Bool := decide (opcodeOf (fieldOp w) = some .rand)

/-- R28 `rng_lo`: the lower bound of the RAND command on `cmd_word`; 0 for another opcode. -/
def rngLoPort (w : Command) : Word := if hasRandOpcode w then rangeLo (fieldImm w) (fieldImm2 w) else 0

/-- R28 `rng_hi`: the higher bound of the RAND command on `cmd_word`; 0 for another opcode. -/
def rngHiPort (w : Command) : Word := if hasRandOpcode w then rangeHi (fieldImm w) (fieldImm2 w) else 0

/-- The ports of R28 in a state: the snapshot shows the bank as of the last edge (R80), the response its registers (R29),
`cmd_ready` is `not rst` (R101), and `rng_lo`, `rng_hi` are functions of `cmd_word` alone. -/
def outputs (s : State) : OutPorts where
  cmdReady := !s.pins.rst
  rngLo := rngLoPort s.pins.cmdWord
  rngHi := rngHiPort s.pins.cmdWord
  rspValid := s.rspValid
  rspStatus := statusCode s.rspStatus
  rspZeroed := oneHot s.rspZeroed
  snapRegs := s.regs
  snapFlags := packFlags s.flags
  snapTurn := s.turn

end Sys2Proof.Machine
end

