-- ==== Sys2Proof/Machine/HostText.lean ====
section
/-! DEFINITION. What the host issues: the command lines of 30_encoding.md section 5 (R50 to R56) and the entries of `load` and
`save` (R55, R57). It stands beside the machine and no step reads it. Text is a list of characters. The layout of the save
file is out of scope (00_scope.md R5, 93_implementation_defined.md I4): `load` and `save` are given by their entries. -/

namespace Sys2Proof.Machine

/-- A line or a token of host text. -/
abbrev Text := List Char

/-- The characters that delimit tokens. R50 says only "whitespace-delimited"; DESIGN CHOICE (log entry 6). -/
def isSpace (c : Char) : Bool := c == ' ' || c == '\t' || c == '\r' || c == '\n'

/-- The tokens of the rest of a line, after the characters (reversed) of a token already begun. -/
def tokensFrom (cur : Text) : Text → List Text
  | [] => if cur = [] then [] else [cur.reverse]
  | c :: cs =>
    if isSpace c then
      if cur = [] then tokensFrom [] cs else cur.reverse :: tokensFrom [] cs
    else tokensFrom (c :: cur) cs

/-- R50: the white-space-delimited tokens of a line. -/
def tokens (line : Text) : List Text := tokensFrom [] line

/-- R51, R52: one or more decimal digits read as a decimal number. -/
def decimal (t : Text) : Option Nat :=
  if t ≠ [] ∧ t.all Char.isDigit = true then some (Nat.ofDigitChars 10 t 0) else none

/-- R51: the index of a register ref without its optional prefix. -/
def stripPrefix : Text → Text
  | 'r' :: ds => ds
  | 'R' :: ds => ds
  | ds => ds

/-- R51: a register ref, which must resolve to 0..7. -/
def regRef (t : Text) : Option RegField :=
  match decimal (stripPrefix t) with
  | some n => if n < 8 then some (BitVec.ofNat 4 n) else none
  | none => none

/-- R52: an unsigned integer, 0..4294967295. -/
def unsignedInt (t : Text) : Option Word :=
  match decimal t with
  | some n => if n < 2 ^ 32 then some (BitVec.ofNat 32 n) else none
  | none => none

/-- The keywords of R54. -/
inductive Keyword where
  | add | sub | mul | mov | rand | reset | load | save | showState | help | script | quit | exit
  deriving DecidableEq, Repr

/-- R54, R50: the keyword of a first token in lower case. -/
def keywordOf (t : Text) : Option Keyword :=
  if t = ['a', 'd', 'd'] then some .add
  else if t = ['s', 'u', 'b'] then some .sub
  else if t = ['m', 'u', 'l'] then some .mul
  else if t = ['m', 'o', 'v'] then some .mov
  else if t = ['r', 'a', 'n', 'd'] then some .rand
  else if t = ['r', 'e', 's', 'e', 't'] then some .reset
  else if t = ['l', 'o', 'a', 'd'] then some .load
  else if t = ['s', 'a', 'v', 'e'] then some .save
  else if t = ['s', 'h', 'o', 'w'] then some .showState
  else if t = ['h', 'e', 'l', 'p'] then some .help
  else if t = ['s', 'c', 'r', 'i', 'p', 't'] then some .script
  else if t = ['q', 'u', 'i', 't'] then some .quit
  else if t = ['e', 'x', 'i', 't'] then some .exit
  else none

/-- What the host does with one command line (R53, R54). -/
inductive HostLine where
  /-- One command word is issued. -/
  | issue (i : Instr)
  /-- `load path`: the commands of the file's entries (R55). -/
  | load (path : Text)
  /-- `script path`: the commands of the file's lines (R56). -/
  | script (path : Text)
  /-- `save path`: the snapshot is read, nothing is issued (R57). -/
  | save (path : Text)
  /-- `show` or `help`: nothing is issued. -/
  | display
  /-- `quit` or `exit`: nothing further is issued (R97). -/
  | stop
  /-- A usage error: reported (R53). That nothing is issued, where R53 also allows a word with an index out of range, is a
  DESIGN CHOICE (log entry 15). -/
  | usageError
  /-- An unknown keyword: reported (R54). That nothing is issued, where R54 also allows any unallocated opcode, is a DESIGN
  CHOICE (log entry 15). -/
  | unrecognized
  /-- A line with no token: nothing issued. DESIGN CHOICE (log entry 7). -/
  | blank
  deriving DecidableEq, Repr

/-- Why a transcriber gives a line no meaning (R51, R52, I7). Such a line is no HostLine: neither a usage error nor a line that
issues nothing. -/
inductive LineRefusal where
  /-- R52: this unsigned integer operand is spelled as the source does not show. -/
  | operandSpelling (token : Text)
  /-- R51, I7, D19: this register ref is spelled as the source does not show. -/
  | registerSpelling (token : Text)
  deriving DecidableEq, Repr

/-- I7, D19: a register ref that the source neither accepts nor shows rejected. Digits with another character among them (hex,
a sign) and a literal above 4294967295 may be an index in the source's reading; `r8` and `x` (E10) are shown rejected, and with
them every other index above 7 and every token without a digit. Where the line runs is DEDUCED (log entry 8). -/
def unshownIndex (t : Text) : Bool :=
  match decimal (stripPrefix t) with
  | some n => decide (4294967295 < n)
  | none => (stripPrefix t).any Char.isDigit

/-- R51, I7: what a transcriber reads in the place of a register ref: a register, none (a usage error, R53), or a refusal. -/
def readRef (t : Text) : Except LineRefusal (Option RegField) :=
  if unshownIndex t then .error (.registerSpelling t) else .ok (regRef t)

/-- The line of a command with a register ref and an unsigned integer (R54: `add`, `sub`, `mov`). -/
def regIntLine (mk : RegField → Word → Instr) (x k : Text) : Except LineRefusal HostLine :=
  match unsignedInt k with
  | none => .error (.operandSpelling k)
  | some n =>
    match readRef x with
    | .error e => .error e
    | .ok none => .ok .usageError
    | .ok (some r) => .ok (.issue (mk r n))

/-- The line of `rand x a b` (R54). -/
def randLine (x a b : Text) : Except LineRefusal HostLine :=
  match unsignedInt a with
  | none => .error (.operandSpelling a)
  | some m => regIntLine (fun r n => .rand r m n) x b

/-- The line of `mul x y` (R54). -/
def mulLine (x y : Text) : Except LineRefusal HostLine :=
  match readRef x, readRef y with
  | .error e, _ => .error e
  | .ok _, .error e => .error e
  | .ok (some r), .ok (some q) => .ok (.issue (.mul r q))
  | .ok _, .ok _ => .ok .usageError

/-- R53, R54: a keyword with its operand tokens; any other number of operands is a usage error. -/
def keywordLine (k : Keyword) (args : List Text) : Except LineRefusal HostLine :=
  match k, args with
  | .add, [x, n] => regIntLine .add x n
  | .sub, [x, n] => regIntLine .sub x n
  | .mov, [x, n] => regIntLine .mov x n
  | .mul, [x, y] => mulLine x y
  | .rand, [x, a, b] => randLine x a b
  | .reset, [] => .ok (.issue .reset)
  | .load, [path] => .ok (.load path)
  | .save, [path] => .ok (.save path)
  | .script, [path] => .ok (.script path)
  | .showState, [] => .ok .display
  | .help, [] => .ok .display
  | .quit, [] => .ok .stop
  | .exit, [] => .ok .stop
  | _, _ => .ok .usageError

/-- R50: one command line; the keyword is matched without regard to case. -/
def assembleLine (line : Text) : Except LineRefusal HostLine :=
  match tokens line with
  | [] => .ok .blank
  | kw :: args =>
    match keywordOf (kw.map Char.toLower) with
    | none => .ok .unrecognized
    | some k => keywordLine k args

/-- The commands a line issues at once. A refused line (R52) is no HostLine, so nothing is said of what it issues. DESIGN CHOICE
(log entry 15): an unknown keyword and a usage error issue nothing, where R54 and R53 also allow a word that the AFU turns
away. -/
def issuedBy : HostLine → List Instr
  | .issue i => [i]
  | .load _ | .script _ | .save _ | .display | .stop | .usageError | .unrecognized | .blank => []

/-- A line refused by name and line (R52): its number in the file, its text, and why. -/
structure RefusedLine where
  number : Nat
  line : Text
  reason : LineRefusal
  deriving DecidableEq, Repr

/-- The line with the given number of a program text: what the host does with it, or its refusal by name and line (R52). -/
def numberedLine (number : Nat) (line : Text) : Except RefusedLine HostLine :=
  match assembleLine line with
  | .ok h => .ok h
  | .error r => .error { number := number, line := line, reason := r }

/-- R56: a script line is skipped iff, its leading white space trimmed, it is empty or begins with `#`. -/
def scriptSkips (line : Text) : Bool :=
  match line.dropWhile isSpace with
  | [] => true
  | c :: _ => c == '#'

/-- R56, R52: the lines of a script from the one with the given number on, each treated as a command line; the first refused
line refuses the script, since the state after it is unknown. Skipped lines are numbered too (log entry 13). -/
def scriptFrom : Nat → List Text → Except RefusedLine (List HostLine)
  | _, [] => .ok []
  | number, line :: rest =>
    if scriptSkips line then scriptFrom (number + 1) rest
    else
      match numberedLine number line with
      | .error r => .error r
      | .ok h => (scriptFrom (number + 1) rest).map (h :: ·)

/-- R56: the lines of a script; the first has number 1 (log entry 13). -/
def scriptLines (lines : List Text) : Except RefusedLine (List HostLine) := scriptFrom 1 lines

/-! ### Spellings of this spec for words no keyword issues (R58) -/

/-- A token that ends in a comma, without it (R58; that the comma ends the token is a DESIGN CHOICE, log entry 14). -/
def stripComma (t : Text) : Option Text :=
  match t.reverse with
  | ',' :: cs => some cs.reverse
  | _ => none

/-- R58: `r<i>` with i in 0..7, the index read as R51 reads one (DESIGN CHOICE, log entry 14). -/
def toolReg : Text → Option RegField
  | 'r' :: ds => regRef ('r' :: ds)
  | _ => none

/-- A binary digit. -/
def bitValue (c : Char) : Option Bool :=
  if c = '0' then some false else if c = '1' then some true else none

/-- R58: a four-bit literal `0bNZCV`. -/
def toolFlags : Text → Option FlagField
  | ['0', 'b', n, z, c, v] => do
    let n ← bitValue n
    let z ← bitValue z
    let c ← bitValue c
    let v ← bitValue v
    some (BitVec.ofBool n ++ BitVec.ofBool z ++ BitVec.ofBool c ++ BitVec.ofBool v)
  | _ => none

/-- R58: the value below 16 whose hexadecimal digit a character is, in either case (DESIGN CHOICE, log entry 14). -/
def hexValue (c : Char) : Option Nat := (List.range 16).find? fun n => Nat.digitChar n == c.toLower

/-- R58: `0x` and exactly twenty hexadecimal digits, most significant first. -/
def toolWordLiteral : Text → Option Command
  | '0' :: 'x' :: ds =>
    if ds.length = 20 then
      (ds.foldlM (fun n c => (hexValue c).map fun d => 16 * n + d) 0).map (BitVec.ofNat 80)
    else none
  | _ => none

/-- R58: the command word of a line `WREG r<i>, v`, `WFLG m, f` or `.word 0x<20 hex digits>` of a test program or of host
tooling. The interpreter of the source accepts none of them: assembleLine does not call this. DESIGN CHOICE (log entry 14): the
value v of WREG, for which R58 gives no literal form, is R52's decimal digits, so a hex v is not read; and a line spelled in any
other way than R58 writes it has no word. -/
def toolLine (line : Text) : Option Command :=
  match tokens line with
  | [kw, a, b] =>
    if kw = ['W', 'R', 'E', 'G'] then do
      let r ← (stripComma a).bind toolReg
      let v ← unsignedInt b
      some (encode (.wreg r v))
    else if kw = ['W', 'F', 'L', 'G'] then do
      let m ← (stripComma a).bind toolFlags
      let f ← toolFlags b
      some (encode (.wflg m f))
    else none
  | [kw, a] => if kw = ['.', 'w', 'o', 'r', 'd'] then toolWordLiteral a else none
  | _ => none

/-! ### `load` and `save` (R55, R57) -/

/-- The flag keys (R55). -/
inductive FlagName where
  | n | z | c | v
  deriving DecidableEq, Repr

/-- The flag's bit in the packing of R20. -/
def flagBit : FlagName → Nat
  | .n => 3
  | .z => 2
  | .c => 1
  | .v => 0

/-- A `key=value` line of a save file (R55). A value that is no 32-bit value or no single bit is not modelled (I5). -/
inductive LoadEntry where
  /-- The key `r<i>`, for any index. -/
  | reg (i : Nat) (v : Word)
  /-- A flag key. -/
  | flag (f : FlagName) (b : Bool)
  /-- An unknown key. -/
  | other
  deriving DecidableEq, Repr

/-- The mask that selects one flag alone (R20, R55). -/
def flagMask : FlagName → FlagField
  | .n => 0b1000
  | .z => 0b0100
  | .c => 0b0010
  | .v => 0b0001

/-- R55: the one-flag WFLG of a flag key, the value in that flag's bit position. -/
def flagCommand (f : FlagName) (b : Bool) : Instr := .wflg (flagMask f) (if b then flagMask f else 0)

/-- R55: the command of one entry; none for an unknown key or a register key outside 0..7. -/
def entryCommands : LoadEntry → List Instr
  | .reg i v => if i < 8 then [.wreg (BitVec.ofNat 4 i) v] else []
  | .flag f b => [flagCommand f b]
  | .other => []

/-- R55: the commands of a `load`, in file order. -/
def loadCommands (es : List LoadEntry) : List Instr := es.flatMap entryCommands

/-- R57: the entries a `save` writes from the snapshot; the turn counter is not among them. -/
def saveEntries (o : OutPorts) : List LoadEntry :=
  (List.finRange 8).map (fun i => .reg i.val o.snapRegs[i]) ++
    [FlagName.n, .z, .c, .v].map fun f => .flag f (o.snapFlags.getLsbD (flagBit f))

/-- R81: the other form of a `load` of a whole snapshot, one WREG per register and one WFLG of all four flags. -/
def loadWhole (o : OutPorts) : List Instr :=
  (List.finRange 8).map (fun i => .wreg (BitVec.ofNat 4 i.val) o.snapRegs[i]) ++ [.wflg 0xF o.snapFlags]

end Sys2Proof.Machine
end

