-- ==== Sys2Proof/Safety.lean ====
section
/-! DEFINITION. The terms claims are stated in: what a command changed and kept, which command an edge executes, what a run
is, and what holds of every response. -/

namespace Sys2Proof.Machine

/-! ### What changed and what was kept -/

/-- The architectural state `(r[0..7], F, turn)` (R13) is unchanged. -/
def BankKept (s t : State) : Prop := t.regs = s.regs ∧ t.flags = s.flags ∧ t.turn = s.turn

/-- The host's inputs are unchanged. -/
def HostKept (s t : State) : Prop := t.pins = s.pins ∧ t.later = s.later

/-- The architectural state is the reset state of R30. -/
def BankIsReset (t : State) : Prop :=
  (∀ i : RegIx, t.regs[i] = 100) ∧
    t.flags.n = false ∧ t.flags.z = false ∧ t.flags.c = false ∧ t.flags.v = false ∧ t.turn = 0

/-- The response of a command (R29). -/
def Responds (t : State) (st : Status) (zeroed : Option RegIx) : Prop :=
  t.rspValid = true ∧ t.rspStatus = st ∧ t.rspZeroed = zeroed

/-- A command turned away with a status: nothing written, no zero event (R83). -/
def TurnedAway (s t : State) (st : Status) : Prop :=
  BankKept s t ∧ HostKept s t ∧ Responds t st none

/-- The commit of R59 and all it leaves alone: the destination, all four flags, the counter and the response are written, and
nothing else. The counter's wrap is the spec's decision D10 (R22); the zero event for a 0 written over 0 is its decision D11
(R25). -/
def CommitsTo (s t : State) (rd : RegIx) (res : Word) (n z c v : Bool) : Prop :=
  t.regs[rd] = res ∧ (∀ i : RegIx, i ≠ rd → t.regs[i] = s.regs[i]) ∧
    t.flags.n = n ∧ t.flags.z = z ∧ t.flags.c = c ∧ t.flags.v = v ∧
    t.turn.toNat = (s.turn.toNat + 1) % 2 ^ 64 ∧
    Responds t .ok (if res = 0 then some rd else none) ∧ HostKept s t

/-! ### Which command an edge executes -/

/-- The computing commands (00_scope.md, glossary). -/
def isComputing : Instr → Bool
  | .add _ _ | .sub _ _ | .mul _ _ | .mov _ _ | .rand _ _ _ => true
  | .reset | .wreg _ _ | .wflg _ _ => false

/-- The register field a command writes through (R16). -/
def destination : Instr → Option RegField
  | .add rd _ | .sub rd _ | .mul rd _ | .mov rd _ | .rand rd _ _ | .wreg rd _ => some rd
  | .reset | .wflg _ _ => none

/-- The status a word ends with, from the word and the draw alone (R48, R84). -/
def statusOfWord (w : Command) (d : Word) : Status :=
  match decode w with
  | .error e => statusOf e
  | .ok (.rand _ a b) => if drawInRange a b d then .ok else .rngRange
  | .ok _ => .ok

/-- The command that executes with status OK at an edge with these pins, if one does (R82, R101). -/
def executedAt (p : Pins) : Option Instr :=
  if p.rst || !p.cmdValid then none
  else if statusOfWord p.cmdWord p.rngValue = .ok then (decode p.cmdWord).toOption else none

/-- An edge at which a computing command executes: the edges that count a turn (R21). -/
def countsTurn (p : Pins) : Bool := (executedAt p).any isComputing

/-- An edge that reinitialises the bank: the reset input or an executed RESET (R21, R77, R98). -/
def reinitialises (p : Pins) : Bool := p.rst || executedAt p == some .reset

/-! ### Words by their fields (R43 to R46) -/

/-- R46: the opcode is one of 0x0 and 0x9 to 0xF. -/
abbrev OpcodeUnallocated (w : Command) : Prop := (fieldOp w).toNat = 0 ∨ 9 ≤ (fieldOp w).toNat

/-- R43: a field that the word's allocated opcode does not use is not all zero. -/
def unusedFieldSet (w : Command) : Bool :=
  match (fieldOp w).toNat with
  | 0x1 | 0x2 | 0x4 | 0x7 => decide (fieldRs w ≠ 0 ∨ fieldFm w ≠ 0 ∨ fieldImm2 w ≠ 0)
  | 0x3 => decide (fieldFm w ≠ 0 ∨ fieldImm2 w ≠ 0 ∨ fieldImm w ≠ 0)
  | 0x5 => decide (fieldRs w ≠ 0 ∨ fieldFm w ≠ 0)
  | 0x6 => decide (fieldRd w ≠ 0 ∨ fieldRs w ≠ 0 ∨ fieldFm w ≠ 0 ∨ fieldImm2 w ≠ 0 ∨ fieldImm w ≠ 0)
  | 0x8 => decide (fieldRd w ≠ 0 ∨ fieldRs w ≠ 0 ∨ fieldImm2 w ≠ 0 ∨ w.extractLsb' 4 28 ≠ 0)
  | _ => false

/-- R45: a register field that the word's allocated opcode uses holds 8..15. -/
def registerFieldHigh (w : Command) : Bool :=
  match (fieldOp w).toNat with
  | 0x1 | 0x2 | 0x4 | 0x5 | 0x7 => decide (8 ≤ (fieldRd w).toNat)
  | 0x3 => decide (8 ≤ (fieldRd w).toNat ∨ 8 ≤ (fieldRs w).toNat)
  | _ => false

/-- R44: the word has an allocated opcode and a set bit in a field that opcode does not use. -/
abbrev UnusedFieldSet (w : Command) : Prop := unusedFieldSet w = true

/-- R45: the word has an allocated opcode and names a register above 7. -/
abbrev RegisterFieldHigh (w : Command) : Prop := registerFieldHigh w = true

/-- The words of one opcode, by their fields: a set unused field and then a register field above 7 are errors, and every other
word is the command `mk` reads from it (R43 to R45). -/
def DecodesBy (op : BitVec 4) (mk : Command → Instr) : Prop :=
  ∀ w : Command, fieldOp w = op →
    (UnusedFieldSet w → decode w = .error .mustBeZero) ∧
      (¬ UnusedFieldSet w → RegisterFieldHigh w → decode w = .error .registerRange) ∧
      (¬ UnusedFieldSet w → ¬ RegisterFieldHigh w → decode w = .ok (mk w))

/-- The number of operand tokens of each keyword (R54). -/
def operandCount : Keyword → Nat
  | .add | .sub | .mul | .mov => 2
  | .rand => 3
  | .load | .save | .script => 1
  | .reset | .showState | .help | .quit | .exit => 0

/-- A register ref spelled as the source does not show (I7, D19, log entry 8): digits and another character after the optional
prefix, or digits whose decimal value is above 4294967295. -/
abbrev UnshownIndex (t : Text) : Prop :=
  ((stripPrefix t).any Char.isDigit = true ∧ (stripPrefix t).all Char.isDigit = false) ∨
    ((stripPrefix t).all Char.isDigit = true ∧ 4294967295 < Nat.ofDigitChars 10 (stripPrefix t) 0)

/-- A register ref that the source rejects (R51, E10): no digit after the optional prefix, or digits whose decimal value is an
index above 7. -/
abbrev RejectedIndex (t : Text) : Prop :=
  (stripPrefix t).any Char.isDigit = false ∨
    ((stripPrefix t).all Char.isDigit = true ∧ 8 ≤ Nat.ofDigitChars 10 (stripPrefix t) 0 ∧
      Nat.ofDigitChars 10 (stripPrefix t) 0 ≤ 4294967295)

/-! ### Runs -/

/-- `k` edges, stopping at a fault or a refusal. -/
def run : Nat → State → Result
  | 0, s => .next s
  | k + 1, s =>
    match step s with
    | .next t => run k t
    | .fault r => .fault r
    | .refused r => .refused r

/-- The edges of a run still to come: the coming one and those after it. -/
def edgesOf (s : State) : List Pins := s.pins :: s.later

/-- The pins of a host that issues these commands one after another; no draw is read (RAND is not among them). -/
def commandPins (is : List Instr) : List Pins := is.map fun i => Pins.command (encode i) 0

/-- A run of as many edges as commands from `s`, a host issuing those commands, every one of which reports OK and no zero
event, and which ends in `t`. -/
def LoadsTo (s : State) (is : List Instr) (t : State) : Prop :=
  run is.length (s.driven (commandPins is)) = .next t ∧
    ∀ k < is.length, ∃ u, run (k + 1) (s.driven (commandPins is)) = .next u ∧ Responds u .ok none

/-! ### What holds of every response -/

/-- A safe response (R25, R29, R83): while a response is shown, one with a status other than OK has no zero event, and one
with a zero event for register i has status OK, register i at 0, and the flags of a zero result. -/
def ResponseInv (s : State) : Prop :=
  s.rspValid = true →
    (s.rspStatus ≠ .ok → s.rspZeroed = none) ∧
      ∀ i, s.rspZeroed = some i → s.rspStatus = .ok ∧ s.regs[i] = 0 ∧ s.flags.z = true ∧ s.flags.n = false

end Sys2Proof.Machine
end

