-- ==== Sys2Proof/Certificates/Slice0/Obligations.lean ====
section
/-! DEFINITION. What is to be proved of the model, stated from the numbered rules of spec/. Signed readings are written with
BitVec.toInt, the two's-complement reading of 00_scope.md R10. A value of RAND's draw is never fixed: the statements hold for
every state, so for every value of the pin `rng_value`. -/

open Sys2Proof Sys2Proof.Machine

/-! ### The command word -/

/-- Decoding the encoding of a well-formed command gives it back, every operand at every value (R40 to R43, R48). -/
def Obligations.DecodeOfEncodeIsInstr : Prop :=
  ∀ i : Instr, WellFormed i → decode (encode i) = .ok i

/-- A word that decodes is the one encoding of its command, which is well formed (R43, D5). -/
def Obligations.DecodedWordReencodesToItself : Prop :=
  ∀ (w : Command) (i : Instr), decode w = .ok i → WellFormed i ∧ encode i = w

/-- A command with a register field above 7 has a word, and the decoder turns it away for that field (R45). -/
def Obligations.IllFormedInstrIsRegisterRangeError : Prop :=
  ∀ i : Instr, ¬ WellFormed i → decode (encode i) = .error .registerRange

/-- R43: the match and mask of each row say the same as its table of used and must-be-zero fields. -/
def Obligations.RowPatternsAreTheFieldTable : Prop :=
  ∀ w : Command,
    (w &&& rowMask .add = rowMatch .add ↔
      fieldOp w = 0x1 ∧ fieldRs w = 0 ∧ fieldFm w = 0 ∧ fieldImm2 w = 0) ∧
    (w &&& rowMask .sub = rowMatch .sub ↔
      fieldOp w = 0x2 ∧ fieldRs w = 0 ∧ fieldFm w = 0 ∧ fieldImm2 w = 0) ∧
    (w &&& rowMask .mul = rowMatch .mul ↔
      fieldOp w = 0x3 ∧ fieldFm w = 0 ∧ fieldImm2 w = 0 ∧ fieldImm w = 0) ∧
    (w &&& rowMask .mov = rowMatch .mov ↔
      fieldOp w = 0x4 ∧ fieldRs w = 0 ∧ fieldFm w = 0 ∧ fieldImm2 w = 0) ∧
    (w &&& rowMask .rand = rowMatch .rand ↔ fieldOp w = 0x5 ∧ fieldRs w = 0 ∧ fieldFm w = 0) ∧
    (w &&& rowMask .reset = rowMatch .reset ↔
      fieldOp w = 0x6 ∧ fieldRd w = 0 ∧ fieldRs w = 0 ∧ fieldFm w = 0 ∧ fieldImm2 w = 0 ∧ fieldImm w = 0) ∧
    (w &&& rowMask .wreg = rowMatch .wreg ↔
      fieldOp w = 0x7 ∧ fieldRs w = 0 ∧ fieldFm w = 0 ∧ fieldImm2 w = 0) ∧
    (w &&& rowMask .wflg = rowMatch .wflg ↔
      fieldOp w = 0x8 ∧ fieldRd w = 0 ∧ fieldRs w = 0 ∧ fieldImm2 w = 0 ∧ w.extractLsb' 4 28 = 0)

/-- The words of the spec's list decode to the commands beside them (R49, which the spec marks as derived). -/
def Obligations.SpecWordsDecodeToTheirCommands : Prop :=
  decode 0x10000000000000000005 = .ok (.add 0 5) ∧
  decode 0x20000000000000000064 = .ok (.sub 0 100) ∧
  decode 0x32300000000000000000 = .ok (.mul 2 3) ∧
  decode 0x410000000000FFFFFFFF = .ok (.mov 1 4294967295) ∧
  decode 0x5400000000010000000A = .ok (.rand 4 10 1) ∧
  decode 0x60000000000000000000 = .ok .reset ∧
  decode 0x7500000000000000002A = .ok (.wreg 5 42) ∧
  decode 0x80040000000000000004 = .ok (.wflg 0b0100 0b0100)

/-- A word carried as ten bytes, least significant first, followed by anything: byte j is `w[8j+7:8j]` (R33), and a
well-formed command comes back with the rest of the bytes. -/
def Obligations.CommandBytesRoundTrip : Prop :=
  (∀ w : Command, (bytesOfCommand w).length = 10 ∧
    ∀ j < 10, (bytesOfCommand w)[j]? = some (BitVec.ofNat 8 (w.toNat / 2 ^ (8 * j)))) ∧
  ∀ (i : Instr) (rest : List Byte), WellFormed i →
    decodeBytes (bytesOfCommand (encode i) ++ rest) = .ok (i, rest)

/-! ### The step -/

/-- When the accepted word decodes to a command, the step is that command's meaning, after which the host's pins move on. The
host's part is the model's own (log entry 3). -/
def Obligations.AcceptedWordRunsItsCommand : Prop :=
  ∀ (s : State) (i : Instr), s.pins.rst = false → s.pins.cmdValid = true → decode s.pins.cmdWord = .ok i →
    ∃ t u, exec i s = .next t ∧ step s = .next u ∧
      u.regs = t.regs ∧ u.flags = t.flags ∧ u.turn = t.turn ∧ u.rspValid = t.rspValid ∧
      u.rspStatus = t.rspStatus ∧ u.rspZeroed = t.rspZeroed ∧
      u.pins = s.later.headD Pins.idle ∧ u.later = s.later.tail

/-- The step is total: no word, draw or state stops the machine (R14, R86). -/
def Obligations.StepAlwaysAnswersNext : Prop :=
  ∀ s : State, ∃ t, step s = .next t

/-- R44, R45, R46: a word with an unallocated opcode, a set unused field or a register field above 7 is answered by its status
and changes nothing. -/
def Obligations.RejectedWordReportsItsStatus : Prop :=
  ∀ s : State, s.pins.rst = false → s.pins.cmdValid = true →
    ∃ t, step s = .next t ∧
      (OpcodeUnallocated s.pins.cmdWord → BankKept s t ∧ Responds t .unrecognized none) ∧
      (UnusedFieldSet s.pins.cmdWord → BankKept s t ∧ Responds t .usage none) ∧
      (RegisterFieldHigh s.pins.cmdWord → BankKept s t ∧ Responds t .usage none)

/-- R82, R84: the status port after an accepted word shows the code of the first cause in the spec's order, and 0 when there
is none. -/
def Obligations.StatusCodeIsTheFirstCauseInOrder : Prop :=
  ∀ s : State, s.pins.rst = false → s.pins.cmdValid = true →
    let w := s.pins.cmdWord
    let d := s.pins.rngValue.toNat
    let DrawOutside := (fieldOp w).toNat = 0x5 ∧
      (d < min (fieldImm w).toNat (fieldImm2 w).toNat ∨ max (fieldImm w).toNat (fieldImm2 w).toNat < d)
    ∃ t, step s = .next t ∧ (outputs t).rspValid = true ∧
      (OpcodeUnallocated w → (outputs t).rspStatus = 2) ∧
      (¬ OpcodeUnallocated w → UnusedFieldSet w → (outputs t).rspStatus = 1) ∧
      (¬ OpcodeUnallocated w → ¬ UnusedFieldSet w → RegisterFieldHigh w → (outputs t).rspStatus = 1) ∧
      (¬ OpcodeUnallocated w → ¬ UnusedFieldSet w → ¬ RegisterFieldHigh w → DrawOutside →
        (outputs t).rspStatus = 3) ∧
      (¬ OpcodeUnallocated w → ¬ UnusedFieldSet w → ¬ RegisterFieldHigh w → ¬ DrawOutside →
        (outputs t).rspStatus = 0)

/-- R98: at an edge with `rst = 1` no command is accepted (`cmd_ready` is 0), whatever `cmd_valid` and the word; the bank takes
the reset values, which are those RESET gives, and there is no response. -/
def Obligations.ResetInputReinitialisesBank : Prop :=
  ∀ s : State, s.pins.rst = true →
    (outputs s).cmdReady = false ∧
      ∃ t u, step s = .next t ∧ exec .reset s = .next u ∧
        BankIsReset t ∧ BankKept u t ∧ t.rspValid = false

/-- An edge with no reset and no command keeps the bank and shows no response (R101's last case, R94). -/
def Obligations.IdleEdgeKeepsBank : Prop :=
  ∀ s : State, s.pins.rst = false → s.pins.cmdValid = false →
    (outputs s).cmdReady = true ∧ ∃ t, step s = .next t ∧ BankKept s t ∧ t.rspValid = false

/-- At power-up, after the reset input and after an executed RESET the bank holds the reset values; at power-up and after
the reset input `rsp_valid` is 0 (R30). That power-up is the reset state is the spec's own decision D13. -/
def Obligations.ResetValuesOfTheBank : Prop :=
  (BankIsReset State.reset ∧ State.reset.rspValid = false) ∧
    ∀ s : State,
      (∃ t, exec .reset s = .next t ∧ BankIsReset t) ∧
        (s.pins.rst = true → ∃ t, step s = .next t ∧ BankIsReset t ∧ t.rspValid = false)

/-- The state after and the response depend on the bank, the word and the draw alone: not on the response shown before,
nor on what the host will present later (R14). -/
def Obligations.StepDependsOnlyOnBankAndPins : Prop :=
  ∀ s s' : State, BankKept s s' → s'.pins = s.pins →
    ∃ t t', step s = .next t ∧ step s' = .next t' ∧ BankKept t t' ∧ t'.rspValid = t.rspValid ∧
      (t.rspValid = true → t'.rspStatus = t.rspStatus ∧ t'.rspZeroed = t.rspZeroed)

/-- For every word without RAND's opcode the draw is ignored (R26). -/
def Obligations.DrawIgnoredByOtherOpcodes : Prop :=
  ∀ (s : State) (d : Word), (fieldOp s.pins.cmdWord).toNat ≠ 0x5 →
    step { s with pins := { s.pins with rngValue := d } } = step s

/-! ### The commands -/

/-- R61: ADD. -/
def Obligations.AddCommand : Prop :=
  DecodesBy 0x1 (fun w => .add (fieldRd w) (fieldImm w)) ∧
  ∀ (s : State) (rd : RegField) (imm : Word),
    (∀ h : rd.toNat < 8, ∃ t, exec (.add rd imm) s = .next t ∧
      let a := s.regs[rd.toNat]
      let sum := a.toNat + imm.toNat
      let res := BitVec.ofNat 32 (sum % 2 ^ 32)
      CommitsTo s t ⟨rd.toNat, h⟩ res (res.getLsbD 31) (decide (res = 0)) (decide (sum > 2 ^ 32 - 1))
        ((a.getLsbD 31 == imm.getLsbD 31) && (res.getLsbD 31 != a.getLsbD 31))) ∧
    (8 ≤ rd.toNat → ∃ t, exec (.add rd imm) s = .next t ∧ TurnedAway s t .usage)

/-- R64: SUB. -/
def Obligations.SubCommand : Prop :=
  DecodesBy 0x2 (fun w => .sub (fieldRd w) (fieldImm w)) ∧
  ∀ (s : State) (rd : RegField) (imm : Word),
    (∀ h : rd.toNat < 8, ∃ t, exec (.sub rd imm) s = .next t ∧
      let a := s.regs[rd.toNat]
      let res := BitVec.ofInt 32 (((a.toNat : Int) - imm.toNat) % 2 ^ 32)
      CommitsTo s t ⟨rd.toNat, h⟩ res (res.getLsbD 31) (decide (res = 0)) (decide (a.toNat ≥ imm.toNat))
        ((a.getLsbD 31 != imm.getLsbD 31) && (a.getLsbD 31 != res.getLsbD 31))) ∧
    (8 ≤ rd.toNat → ∃ t, exec (.sub rd imm) s = .next t ∧ TurnedAway s t .usage)

/-- R67: MUL, also when both fields name one register. -/
def Obligations.MulCommand : Prop :=
  DecodesBy 0x3 (fun w => .mul (fieldRd w) (fieldRs w)) ∧
  ∀ (s : State) (rd rs : RegField),
    (∀ (h : rd.toNat < 8) (_ : rs.toNat < 8), ∃ t, exec (.mul rd rs) s = .next t ∧
      let a := s.regs[rd.toNat]
      let b := s.regs[rs.toNat]
      let p := a.toNat * b.toNat
      let q := a.toInt * b.toInt
      let res := BitVec.ofNat 32 (p % 2 ^ 32)
      CommitsTo s t ⟨rd.toNat, h⟩ res (res.getLsbD 31) (decide (res = 0)) (decide (p > 2 ^ 32 - 1))
        (!decide (-2 ^ 31 ≤ q ∧ q ≤ 2 ^ 31 - 1))) ∧
    (8 ≤ rd.toNat ∨ 8 ≤ rs.toNat → ∃ t, exec (.mul rd rs) s = .next t ∧ TurnedAway s t .usage)

/-- R73: MOV. -/
def Obligations.MovCommand : Prop :=
  DecodesBy 0x4 (fun w => .mov (fieldRd w) (fieldImm w)) ∧
  ∀ (s : State) (rd : RegField) (imm : Word),
    (∀ h : rd.toNat < 8, ∃ t, exec (.mov rd imm) s = .next t ∧
      CommitsTo s t ⟨rd.toNat, h⟩ imm (imm.getLsbD 31) (decide (imm = 0)) false false) ∧
    (8 ≤ rd.toNat → ∃ t, exec (.mov rd imm) s = .next t ∧ TurnedAway s t .usage)

/-- R74, R76: RAND with the draw d on `rng_value`, whatever d is. -/
def Obligations.RandCommand : Prop :=
  DecodesBy 0x5 (fun w => .rand (fieldRd w) (fieldImm w) (fieldImm2 w)) ∧
  (∀ s : State, fieldOp s.pins.cmdWord = 0x5 →
    (outputs s).rngLo.toNat = min (fieldImm s.pins.cmdWord).toNat (fieldImm2 s.pins.cmdWord).toNat ∧
      (outputs s).rngHi.toNat = max (fieldImm s.pins.cmdWord).toNat (fieldImm2 s.pins.cmdWord).toNat) ∧
  ∀ (s : State) (rd : RegField) (a b : Word),
    (∀ h : rd.toNat < 8, ∃ t, exec (.rand rd a b) s = .next t ∧
      let d := s.pins.rngValue
      (min a.toNat b.toNat ≤ d.toNat ∧ d.toNat ≤ max a.toNat b.toNat →
        CommitsTo s t ⟨rd.toNat, h⟩ d (d.getLsbD 31) (decide (d = 0)) false false) ∧
      (d.toNat < min a.toNat b.toNat ∨ max a.toNat b.toNat < d.toNat → TurnedAway s t .rngRange)) ∧
    (8 ≤ rd.toNat → ∃ t, exec (.rand rd a b) s = .next t ∧ TurnedAway s t .usage)

/-- R77: RESET, from any state; the word is RESET only when `w[75:0]` is all zero. -/
def Obligations.ResetCommand : Prop :=
  (∀ w : Command, fieldOp w = 0x6 →
    (w.extractLsb' 0 76 ≠ 0 → decode w = .error .mustBeZero) ∧
      (w.extractLsb' 0 76 = 0 → decode w = .ok .reset)) ∧
  ∀ s : State, ∃ t, exec .reset s = .next t ∧ BankIsReset t ∧ Responds t .ok none ∧ HostKept s t

/-- R78: WREG. -/
def Obligations.WregCommand : Prop :=
  DecodesBy 0x7 (fun w => .wreg (fieldRd w) (fieldImm w)) ∧
  ∀ (s : State) (rd : RegField) (v : Word),
    (∀ h : rd.toNat < 8, ∃ t, exec (.wreg rd v) s = .next t ∧
      t.regs[rd.toNat] = v ∧ (∀ i : RegIx, i.val ≠ rd.toNat → t.regs[i] = s.regs[i]) ∧
      t.flags = s.flags ∧ t.turn = s.turn ∧ Responds t .ok none ∧ HostKept s t) ∧
    (8 ≤ rd.toNat → ∃ t, exec (.wreg rd v) s = .next t ∧ TurnedAway s t .usage)

/-- R79: WFLG, for every mask and value. -/
def Obligations.WflgCommand : Prop :=
  (∀ w : Command, fieldOp w = 0x8 →
    (UnusedFieldSet w → decode w = .error .mustBeZero) ∧
      (¬ UnusedFieldSet w → decode w = .ok (.wflg (fieldFm w) (w.extractLsb' 0 4)))) ∧
  ∀ (s : State) (fm f : FlagField), ∃ t, exec (.wflg fm f) s = .next t ∧
    t.flags.n = (if fm.getLsbD 3 then f.getLsbD 3 else s.flags.n) ∧
    t.flags.z = (if fm.getLsbD 2 then f.getLsbD 2 else s.flags.z) ∧
    t.flags.c = (if fm.getLsbD 1 then f.getLsbD 1 else s.flags.c) ∧
    t.flags.v = (if fm.getLsbD 0 then f.getLsbD 0 else s.flags.v) ∧
    t.regs = s.regs ∧ t.turn = s.turn ∧ Responds t .ok none ∧ HostKept s t

/-- WFLG on the packed flags is a masked merge (R20, R79). -/
def Obligations.WflgIsAMaskedMerge : Prop :=
  ∀ (s : State) (fm f : FlagField), ∃ t, exec (.wflg fm f) s = .next t ∧
    (outputs t).snapFlags = ((outputs s).snapFlags &&& ~~~fm) ||| (f &&& fm)

/-- RAND takes its bounds in either order; equal bounds write their value, or report RNG_RANGE and change nothing for any
other draw; the full range admits every draw (R74, corner cases; R76). -/
def Obligations.RandBoundsInEitherOrder : Prop :=
  ∀ (s : State) (rd : RegField) (a b : Word),
    exec (.rand rd a b) s = exec (.rand rd b a) s ∧
    (∀ h : rd.toNat < 8,
      (s.pins.rngValue = a →
        ∃ t, exec (.rand rd a a) s = .next t ∧ t.rspStatus = .ok ∧ t.regs[rd.toNat] = a) ∧
      (s.pins.rngValue ≠ a → ∃ t, exec (.rand rd a a) s = .next t ∧ TurnedAway s t .rngRange) ∧
      ∃ t, exec (.rand rd 0 0xFFFFFFFF) s = .next t ∧ t.rspStatus = .ok ∧ t.regs[rd.toNat] = s.pins.rngValue)

/-- Every value of the range is a possible result of RAND (R75). -/
def Obligations.EveryDrawInRangeIsPossible : Prop :=
  ∀ (s : State) (rd : RegField) (a b v : Word) (_ : rd.toNat < 8),
    min a.toNat b.toNat ≤ v.toNat → v.toNat ≤ max a.toNat b.toNat →
      ∃ t, exec (.rand rd a b) { s with pins := { s.pins with rngValue := v } } = .next t ∧
        t.rspStatus = .ok ∧ t.regs[rd.toNat] = v

/-! ### The flag generators -/

/-- R60: N and Z of ADD, SUB and MUL are bit 31 of the written result and whether it is 0. -/
def Obligations.NegativeAndZeroReadTheResultOnly : Prop :=
  ∀ (s : State) (rd rs : RegField) (imm : Word) (_ : rd.toNat < 8), rs.toNat < 8 →
    ∀ i ∈ [Instr.add rd imm, Instr.sub rd imm, Instr.mul rd rs], ∃ t, exec i s = .next t ∧
      t.flags.n = t.regs[rd.toNat].getLsbD 31 ∧ (t.flags.z = true ↔ t.regs[rd.toNat] = 0)

/-- ADD's carry (R62), and that it is bit 32 of the 33-bit sum, which R62 marks as derived. -/
def Obligations.AddCarryIsBit32OfTheSum : Prop :=
  ∀ (s : State) (rd : RegField) (b : Word) (_ : rd.toNat < 8), ∃ t, exec (.add rd b) s = .next t ∧
    let a := s.regs[rd.toNat]
    (t.flags.c = true ↔ a.toNat + b.toNat > 2 ^ 32 - 1) ∧
      t.flags.c = (a.setWidth 33 + b.setWidth 33).getLsbD 32

/-- ADD's overflow by signs (R63), and that it means the exact signed sum is out of range, which R63 marks as derived. -/
def Obligations.AddOverflowIffSignedSumOutOfRange : Prop :=
  ∀ (s : State) (rd : RegField) (b : Word) (_ : rd.toNat < 8), ∃ t, exec (.add rd b) s = .next t ∧
    let a := s.regs[rd.toNat]
    (t.flags.v = true ↔
      a.getLsbD 31 = b.getLsbD 31 ∧ t.regs[rd.toNat].getLsbD 31 ≠ a.getLsbD 31) ∧
    (t.flags.v = true ↔ a.toInt + b.toInt < -2 ^ 31 ∨ 2 ^ 31 - 1 < a.toInt + b.toInt)

/-- SUB's carry is no-borrow (R65), and that it is bit 32 of `zext_33(a) + zext_33(NOT b) + 1`, which R65 marks
as derived. -/
def Obligations.SubCarryIsNoBorrow : Prop :=
  ∀ (s : State) (rd : RegField) (b : Word) (_ : rd.toNat < 8), ∃ t, exec (.sub rd b) s = .next t ∧
    let a := s.regs[rd.toNat]
    (t.flags.c = true ↔ a.toNat ≥ b.toNat) ∧
      t.flags.c = (a.setWidth 33 + (~~~b).setWidth 33 + 1).getLsbD 32

/-- SUB's overflow by signs (R66), and that it means the exact signed difference is out of range, which R66 marks as derived. -/
def Obligations.SubOverflowIffSignedDifferenceOutOfRange : Prop :=
  ∀ (s : State) (rd : RegField) (b : Word) (_ : rd.toNat < 8), ∃ t, exec (.sub rd b) s = .next t ∧
    let a := s.regs[rd.toNat]
    (t.flags.v = true ↔
      a.getLsbD 31 ≠ b.getLsbD 31 ∧ a.getLsbD 31 ≠ t.regs[rd.toNat].getLsbD 31) ∧
    (t.flags.v = true ↔ a.toInt - b.toInt < -2 ^ 31 ∨ 2 ^ 31 - 1 < a.toInt - b.toInt)

/-- MUL's carry (R68), and that it means the high half of the 64-bit product is not zero. -/
def Obligations.MulCarryIffHighHalfNotZero : Prop :=
  ∀ (s : State) (rd rs : RegField) (_ : rd.toNat < 8) (_ : rs.toNat < 8), ∃ t, exec (.mul rd rs) s = .next t ∧
    let a := s.regs[rd.toNat]
    let b := s.regs[rs.toNat]
    (t.flags.c = true ↔ a.toNat * b.toNat > 2 ^ 32 - 1) ∧
      (t.flags.c = true ↔ (a.setWidth 64 * b.setWidth 64).extractLsb' 32 32 ≠ 0)

/-- MUL's overflow (R69), and that it means the top 33 bits of the 64-bit signed product are neither all 0 nor all 1, which R69 marks as
derived. -/
def Obligations.MulOverflowIffTopBitsDiffer : Prop :=
  ∀ (s : State) (rd rs : RegField) (_ : rd.toNat < 8) (_ : rs.toNat < 8), ∃ t, exec (.mul rd rs) s = .next t ∧
    let a := s.regs[rd.toNat]
    let b := s.regs[rs.toNat]
    let top := (a.signExtend 64 * b.signExtend 64).extractLsb' 31 33
    (t.flags.v = true ↔ a.toInt * b.toInt < -2 ^ 31 ∨ 2 ^ 31 - 1 < a.toInt * b.toInt) ∧
      (t.flags.v = true ↔ top ≠ 0 ∧ top ≠ BitVec.allOnes 33)

/-- MUL of a register by itself squares the old value, with the flags of that square (R70, which the spec marks as derived). -/
def Obligations.MulOfOneRegisterSquaresTheOldValue : Prop :=
  ∀ (s : State) (rd : RegField) (h : rd.toNat < 8), ∃ t, exec (.mul rd rd) s = .next t ∧
    let a := s.regs[rd.toNat]
    let res := BitVec.ofNat 32 (a.toNat ^ 2 % 2 ^ 32)
    CommitsTo s t ⟨rd.toNat, h⟩ res (res.getLsbD 31) (decide (res = 0)) (decide (a.toNat ^ 2 > 2 ^ 32 - 1))
      (decide (a.toInt ^ 2 > 2 ^ 31 - 1))

/-- The results of ADD, SUB and MUL are the same for the signed and the unsigned reading of the operands (R71 (c)). -/
def Obligations.ResultsAgreeUnderSignedReading : Prop :=
  ∀ (s : State) (rd rs : RegField) (imm : Word) (_ : rd.toNat < 8) (_ : rs.toNat < 8), ∃ t u v,
    exec (.add rd imm) s = .next t ∧ exec (.sub rd imm) s = .next u ∧ exec (.mul rd rs) s = .next v ∧
    let a := s.regs[rd.toNat]
    let b := s.regs[rs.toNat]
    t.regs[rd.toNat] = BitVec.ofInt 32 (a.toInt + imm.toInt) ∧ t.regs[rd.toNat] = BitVec.ofInt 32 (a.toNat + imm.toNat) ∧
    u.regs[rd.toNat] = BitVec.ofInt 32 (a.toInt - imm.toInt) ∧ u.regs[rd.toNat] = BitVec.ofInt 32 (a.toNat - imm.toNat) ∧
    v.regs[rd.toNat] = BitVec.ofInt 32 (a.toInt * b.toInt) ∧ v.regs[rd.toNat] = BitVec.ofInt 32 (a.toNat * b.toNat)

/-! ### Rules about the whole machine -/

/-- Which register an edge may change: all at a reset, the destination of the command executed, and no other (R16). -/
def Obligations.RegistersWrittenOnlyByTheirCommands : Prop :=
  ∀ s : State, ∃ t, step s = .next t ∧ ∀ r : RegIx,
    t.regs[r] ≠ s.regs[r] → reinitialises s.pins = true ∨
      ∃ i f, executedAt s.pins = some i ∧ destination i = some f ∧ f.toNat = r.val

/-- R17, R18: the flags are written by a computing command (all four anew: the step is the same whatever they were), by RESET
and the reset input (to 0), by WFLG (the masked bits), and by nothing else. -/
def Obligations.FlagsWrittenOnlyByTheirCommands : Prop :=
  ∀ s : State, ∃ t, step s = .next t ∧
    (countsTurn s.pins = true → ∀ f : Flags, step { s with flags := f } = .next t) ∧
    (reinitialises s.pins = true →
      t.flags.n = false ∧ t.flags.z = false ∧ t.flags.c = false ∧ t.flags.v = false) ∧
    (∀ fm f, executedAt s.pins = some (.wflg fm f) →
      t.flags.n = (if fm.getLsbD 3 then f.getLsbD 3 else s.flags.n) ∧
      t.flags.z = (if fm.getLsbD 2 then f.getLsbD 2 else s.flags.z) ∧
      t.flags.c = (if fm.getLsbD 1 then f.getLsbD 1 else s.flags.c) ∧
      t.flags.v = (if fm.getLsbD 0 then f.getLsbD 0 else s.flags.v)) ∧
    (t.flags ≠ s.flags → countsTurn s.pins = true ∨ reinitialises s.pins = true ∨
      ∃ fm f, executedAt s.pins = some (.wflg fm f))

/-- R21, R22: the turn counter after any edge; it is shown at the snapshot port and read for nothing but its own increment. -/
def Obligations.TurnCounterLaw : Prop :=
  ∀ s : State, ∃ t, step s = .next t ∧
    (reinitialises s.pins = true → t.turn = 0) ∧
    (reinitialises s.pins = false → countsTurn s.pins = true → t.turn.toNat = (s.turn.toNat + 1) % 2 ^ 64) ∧
    (reinitialises s.pins = false → countsTurn s.pins = false → t.turn = s.turn) ∧
    (outputs t).snapTurn = t.turn ∧
    ∀ c : Turn, ∃ u, step { s with turn := c } = .next u ∧ { u with turn := t.turn } = t

/-- A zero event is reported exactly for the destination of an executed computing command whose result is 0, which is when
the Z it writes is 1; every other command and status reports none (R25). That it
is reported for a 0 written over 0 is the spec's own decision D11. -/
def Obligations.ZeroEventExactlyForAComputedZero : Prop :=
  ∀ s : State, s.pins.rst = false → s.pins.cmdValid = true → ∃ t, step s = .next t ∧ t.rspValid = true ∧
    (∀ r : RegIx, t.rspZeroed = some r ↔
      ∃ i f, executedAt s.pins = some i ∧ isComputing i = true ∧ destination i = some f ∧ f.toNat = r.val ∧
        t.regs[r] = 0) ∧
    (countsTurn s.pins = true → (t.rspZeroed.isSome = true ↔ t.flags.z = true))

/-- R83: a command whose status is not OK changes no state and has no zero event. -/
def Obligations.NonOkCommandChangesNothing : Prop :=
  ∀ s : State, s.pins.rst = false → s.pins.cmdValid = true → ∃ t, step s = .next t ∧
    (t.rspStatus ≠ .ok → BankKept s t ∧ t.rspZeroed = none)

/-- Old flags never influence anything but flags, along any run from any state; and once a computing command or a reset
has executed, not even those (the consequence R19 marks as derived). That the edges to come are a list in the state is the
model's own (log entry 3). -/
def Obligations.OldFlagsNeverInfluenceARun : Prop :=
  ∀ (k : Nat) (s : State) (f : Flags), ∃ t t',
    run k s = .next t ∧ run k { s with flags := f } = .next t' ∧
    { t' with flags := t.flags } = t ∧
    ((∃ p ∈ (edgesOf s).take k, countsTurn p = true ∨ reinitialises p = true) → t' = t)

/-- Every edge, from every state, leaves a safe response (R25, R29, R83). -/
def Obligations.EveryStepKeepsResponseInv : Prop :=
  ∀ s t : State, ResponseInv s → step s = .next t → ResponseInv t

/-- The state at power-up shows no response, so it is safe. -/
def Obligations.ResponseInvAtReset : Prop := ResponseInv State.reset

/-- A run without a reset raises the turn counter by exactly the number of computing commands it executes (E9, R21). The wrap
is the spec's decision D10 (R22, log entry 10); that the edges to come are a list in the state is the model's own (log
entry 3). -/
def Obligations.TurnCountsExecutedComputingCommands : Prop :=
  ∀ (k : Nat) (s : State), (∀ p ∈ (edgesOf s).take k, reinitialises p = false) →
    ∃ t, run k s = .next t ∧
      t.turn.toNat = (s.turn.toNat + ((edgesOf s).take k).countP countsTurn) % 2 ^ 64

/-- Commands take effect one after another in the order presented: a run over two lists of edges is a run over the first
and then over the second, so that no later edge influences an earlier one (R36). -/
def Obligations.CommandsTakeEffectInOrder : Prop :=
  ∀ (s : State) (ps qs : List Pins), ∃ u,
    run ps.length (s.driven ps) = .next u ∧
    run (ps ++ qs).length (s.driven (ps ++ qs)) = run qs.length (u.driven qs)

/-- Loading what was saved of S, from any state S0, by either form of the load and in any order of its commands, gives the
registers and flags of S and the turn counter of S0, and every command reports OK and no zero event (R81,
which the spec marks as derived). That the commands are a list of edges in the state is the model's own (log entry 3). -/
def Obligations.SaveThenLoadRestoresRegistersAndFlags : Prop :=
  ∀ (S S0 : State) (is : List Instr),
    (is.Perm (loadWhole (outputs S)) ∨ is.Perm (loadCommands (saveEntries (outputs S)))) →
      ∃ t, LoadsTo S0 is t ∧ t.regs = S.regs ∧ t.flags = S.flags ∧ t.turn = S0.turn

/-! ### The ports -/

/-- R80, R20: the snapshot port shows every register, the packed flags and the counter. -/
def Obligations.SnapshotPortShowsTheBank : Prop :=
  ∀ s : State, (∀ i : RegIx, (outputs s).snapRegs[i] = s.regs[i]) ∧
    (outputs s).snapFlags.toNat =
      8 * s.flags.n.toNat + 4 * s.flags.z.toNat + 2 * s.flags.c.toNat + s.flags.v.toNat ∧
    (outputs s).snapTurn = s.turn

/-- The response and handshake ports of R28: `cmd_ready` is `not rst`; `rsp_status` is the code of R82; bit i of
`rsp_zeroed` is 1 iff the zero event is register i; `rng_lo` and `rng_hi` are the ordered bounds under RAND's opcode, legal
word or not, and 0 under any other. -/
def Obligations.PortsShowResponseAndRange : Prop :=
  ∀ s : State, (outputs s).cmdReady = !s.pins.rst ∧ (outputs s).rspValid = s.rspValid ∧
    ((outputs s).rspStatus = 0 ↔ s.rspStatus = .ok) ∧ ((outputs s).rspStatus = 1 ↔ s.rspStatus = .usage) ∧
    ((outputs s).rspStatus = 2 ↔ s.rspStatus = .unrecognized) ∧ ((outputs s).rspStatus = 3 ↔ s.rspStatus = .rngRange) ∧
    (∀ i : RegIx, (outputs s).rspZeroed.getLsbD i.val = true ↔ s.rspZeroed = some i) ∧
    (s.rspZeroed = none → (outputs s).rspZeroed = 0) ∧
    ((fieldOp s.pins.cmdWord).toNat = 0x5 →
      (outputs s).rngLo.toNat = min (fieldImm s.pins.cmdWord).toNat (fieldImm2 s.pins.cmdWord).toNat ∧
      (outputs s).rngHi.toNat = max (fieldImm s.pins.cmdWord).toNat (fieldImm2 s.pins.cmdWord).toNat) ∧
    ((fieldOp s.pins.cmdWord).toNat ≠ 0x5 → (outputs s).rngLo = 0 ∧ (outputs s).rngHi = 0)

/-! ### The host's command lines -/

/-- A register ref is decimal digits, bare or after `r` or `R`, read as a decimal number, and resolves to 0..7 or is none
(R51). That zeros before the number's own digits are read is the model's reading of "one or more decimal digits" (log
entry 8): the source shows no such text, and D19 names leading zeros as open. -/
def Obligations.RegisterRefsReadDecimalIndices : Prop :=
  (∀ n zeros : Nat, ∀ p ∈ [[], ['r'], ['R']],
    regRef (p ++ List.replicate zeros '0' ++ Nat.toDigits 10 n) = if n < 8 then some (BitVec.ofNat 4 n) else none) ∧
  (∀ (t : Text) (c : Char), c ∈ stripPrefix t → c.isDigit = false → regRef t = none) ∧
  ∀ p ∈ [[], ['r'], ['R']], regRef p = none

/-- The lines of R54 with decimal operands issue their commands, for every register, prefix and 32-bit operand. -/
def Obligations.CommandLinesIssueTheirCommands : Prop :=
  ∀ (x y : RegIx) (a b : Word), ∀ p ∈ [[], ['r'], ['R']], ∀ q ∈ [[], ['r'], ['R']],
    let X := p ++ Nat.toDigits 10 x.val
    let Y := q ++ Nat.toDigits 10 y.val
    let A := Nat.toDigits 10 a.toNat
    let B := Nat.toDigits 10 b.toNat
    let rx := BitVec.ofNat 4 x.val
    assembleLine (['a', 'd', 'd', ' '] ++ X ++ [' '] ++ A) = .ok (.issue (.add rx a)) ∧
    assembleLine (['s', 'u', 'b', ' '] ++ X ++ [' '] ++ A) = .ok (.issue (.sub rx a)) ∧
    assembleLine (['m', 'o', 'v', ' '] ++ X ++ [' '] ++ A) = .ok (.issue (.mov rx a)) ∧
    assembleLine (['m', 'u', 'l', ' '] ++ X ++ [' '] ++ Y) = .ok (.issue (.mul rx (BitVec.ofNat 4 y.val))) ∧
    assembleLine (['r', 'a', 'n', 'd', ' '] ++ X ++ [' '] ++ A ++ [' '] ++ B) = .ok (.issue (.rand rx a b)) ∧
    assembleLine ['r', 'e', 's', 'e', 't'] = .ok (.issue .reset)

/-- A line with too few or too many operand tokens for its keyword is a usage error (R53). That this is so whatever the operands
look like, also for a line with an integer token that R52 wants refused, is the model's reading (DEDUCED, log entry 8). -/
def Obligations.WrongOperandCountIsAUsageError : Prop :=
  ∀ (k : Keyword) (args : List Text), args.length ≠ operandCount k → keywordLine k args = .ok .usageError

/-- An unsigned integer operand is one or more decimal digits whose value is at most 4294967295, and that value; any other
token is none (R52). That leading zeros are read is the model's reading (log entry 8). -/
def Obligations.OperandSpellingsAreReadOrRefused : Prop :=
  (∀ n zeros : Nat,
    unsignedInt (List.replicate zeros '0' ++ Nat.toDigits 10 n) = if n ≤ 4294967295 then some (BitVec.ofNat 32 n) else none) ∧
  (∀ (t : Text) (c : Char), c ∈ t → c.isDigit = false → unsignedInt t = none) ∧ unsignedInt [] = none

/-- A line with an unsigned integer operand of another form is refused, not given the usage-error meaning: a line `add`,
`sub`, `mov` or `rand`, whatever its register ref, by the name of the refusal and the operand; and in a script by its number
and text as well (R52, I7). That the refusal comes before the register ref's usage error (R53) is the model's reading (DEDUCED,
log entry 8); so are the numbering of the lines (DESIGN CHOICE) and the refusal of the whole script (DEDUCED), log entry 13. -/
def Obligations.RefusedLineIsNamedWithItsLine : Prop :=
  (∀ (k : Keyword) (line kw x a : Text), k ∈ [.add, .sub, .mov] → keywordOf (kw.map Char.toLower) = some k →
    tokens line = [kw, x, a] → unsignedInt a = none → assembleLine line = .error (.operandSpelling a)) ∧
  (∀ line kw x a b : Text, keywordOf (kw.map Char.toLower) = some .rand → tokens line = [kw, x, a, b] →
    (unsignedInt a = none → assembleLine line = .error (.operandSpelling a)) ∧
    ((unsignedInt a).isSome = true → unsignedInt b = none → assembleLine line = .error (.operandSpelling b))) ∧
  ∀ (line : Text) (r : LineRefusal) (before after : List Text) (hs : List HostLine),
    assembleLine line = .error r → scriptLines before = .ok hs →
      scriptLines (before ++ line :: after) = .error { number := before.length + 1, line := line, reason := r }

/-- A register ref spelled as the source does not show refuses its line by name (R51, I7, D19), and one that the source rejects
makes its line a usage error (R51, R53), at every place of a register ref, when the integers of the line are read. Which
spellings are unshown, and that a refusal comes before a usage error, is the model's reading (DEDUCED, log entry 8). -/
def Obligations.RegisterRefsAreRefusedOrUsageErrors : Prop :=
  (∀ (k : Keyword) (line kw x a : Text), k ∈ [.add, .sub, .mov] → keywordOf (kw.map Char.toLower) = some k →
    tokens line = [kw, x, a] → (unsignedInt a).isSome = true →
      (UnshownIndex x → assembleLine line = .error (.registerSpelling x)) ∧
      (RejectedIndex x → assembleLine line = .ok .usageError)) ∧
  (∀ line kw x a b : Text, keywordOf (kw.map Char.toLower) = some .rand → tokens line = [kw, x, a, b] →
    (unsignedInt a).isSome = true → (unsignedInt b).isSome = true →
      (UnshownIndex x → assembleLine line = .error (.registerSpelling x)) ∧
      (RejectedIndex x → assembleLine line = .ok .usageError)) ∧
  ∀ line kw x y : Text, keywordOf (kw.map Char.toLower) = some .mul → tokens line = [kw, x, y] →
    (UnshownIndex x → assembleLine line = .error (.registerSpelling x)) ∧
    (¬ UnshownIndex x → UnshownIndex y → assembleLine line = .error (.registerSpelling y)) ∧
    (¬ UnshownIndex x → ¬ UnshownIndex y → RejectedIndex x ∨ RejectedIndex y → assembleLine line = .ok .usageError)

/-- Of the lines of a script exactly those are skipped that, trimmed of leading white space, are empty or begin with `#`; the
others are treated in order as command lines (R56). The model's own: which characters are white space (DESIGN CHOICE, log entry
6), the numbers of the lines (DESIGN CHOICE) and that the first refused line refuses the whole script (DEDUCED), log entry 13. -/
def Obligations.ScriptSkipsOnlyBlankAndCommentLines : Prop :=
  (∀ lines : List Text, scriptLines lines = scriptFrom 1 lines) ∧
  ∀ (n : Nat) (line : Text) (before after : List Text),
    scriptFrom n (before ++ line :: after) = do
      let first ← scriptFrom n before
      let here ← (if line.dropWhile isSpace = [] ∨ (line.dropWhile isSpace).head? = some '#' then .ok []
        else (numberedLine (n + before.length) line).map ([·]) : Except RefusedLine (List HostLine))
      let last ← scriptFrom (n + before.length + 1) after
      pure (first ++ here ++ last)
end

