-- ==== Sys2Proof/Laws/Decode.lean ====
section
/-! SUPPORT. The fields of a packed word, and the patterns of R43 as packed words (30_encoding.md R40, R43). -/

namespace Sys2Proof

section Fields

variable (op : BitVec 4) (rd rs : RegField) (fm : FlagField) (imm2 imm : Word)

@[simp] theorem fieldOp_packFields : fieldOp (packFields op rd rs fm imm2 imm) = op := by
  apply BitVec.eq_of_getLsbD_eq; intro i hi
  simp [fieldOp, packFields]; grind

@[simp] theorem fieldRd_packFields : fieldRd (packFields op rd rs fm imm2 imm) = rd := by
  apply BitVec.eq_of_getLsbD_eq; intro i hi
  simp [fieldRd, packFields]; grind

@[simp] theorem fieldRs_packFields : fieldRs (packFields op rd rs fm imm2 imm) = rs := by
  apply BitVec.eq_of_getLsbD_eq; intro i hi
  simp [fieldRs, packFields]; grind

@[simp] theorem fieldFm_packFields : fieldFm (packFields op rd rs fm imm2 imm) = fm := by
  apply BitVec.eq_of_getLsbD_eq; intro i hi
  simp [fieldFm, packFields]; grind

@[simp] theorem fieldImm2_packFields : fieldImm2 (packFields op rd rs fm imm2 imm) = imm2 := by
  apply BitVec.eq_of_getLsbD_eq; intro i hi
  simp [fieldImm2, packFields]; grind

@[simp] theorem fieldImm_packFields : fieldImm (packFields op rd rs fm imm2 imm) = imm := by
  apply BitVec.eq_of_getLsbD_eq; intro i hi
  simp [fieldImm, packFields]; grind

/-- The flag values of WFLG are the low four bits of the immediate. -/
theorem fieldFlags_eq (w : Command) : fieldFlags w = (fieldImm w).setWidth 4 := by
  apply BitVec.eq_of_getLsbD_eq; intro i hi
  simp [fieldFlags, fieldImm]; grind

/-- A word is the packing of its six fields. -/
theorem packFields_fields (w : Command) :
    packFields (fieldOp w) (fieldRd w) (fieldRs w) (fieldFm w) (fieldImm2 w) (fieldImm w) = w := by
  apply BitVec.eq_of_getLsbD_eq; intro i hi
  simp only [packFields, fieldOp, fieldRd, fieldRs, fieldFm, fieldImm, fieldImm2, BitVec.getLsbD_append,
    BitVec.getLsbD_extractLsb']
  grind

/-- Two words are equal when their fields are. -/
theorem eq_iff_fields (v w : Command) :
    v = w ↔ fieldOp v = fieldOp w ∧ fieldRd v = fieldRd w ∧ fieldRs v = fieldRs w ∧ fieldFm v = fieldFm w ∧
      fieldImm2 v = fieldImm2 w ∧ fieldImm v = fieldImm w := by
  constructor
  · rintro rfl; simp
  · rintro ⟨h1, h2, h3, h4, h5, h6⟩
    rw [← packFields_fields v, ← packFields_fields w, h1, h2, h3, h4, h5, h6]

@[simp] theorem fieldOp_and (v w : Command) : fieldOp (v &&& w) = fieldOp v &&& fieldOp w := by
  apply BitVec.eq_of_getLsbD_eq; intro i hi
  simp [hi, fieldOp]

@[simp] theorem fieldRd_and (v w : Command) : fieldRd (v &&& w) = fieldRd v &&& fieldRd w := by
  apply BitVec.eq_of_getLsbD_eq; intro i hi
  simp [hi, fieldRd]

@[simp] theorem fieldRs_and (v w : Command) : fieldRs (v &&& w) = fieldRs v &&& fieldRs w := by
  apply BitVec.eq_of_getLsbD_eq; intro i hi
  simp [hi, fieldRs]

@[simp] theorem fieldFm_and (v w : Command) : fieldFm (v &&& w) = fieldFm v &&& fieldFm w := by
  apply BitVec.eq_of_getLsbD_eq; intro i hi
  simp [hi, fieldFm]

@[simp] theorem fieldImm2_and (v w : Command) : fieldImm2 (v &&& w) = fieldImm2 v &&& fieldImm2 w := by
  apply BitVec.eq_of_getLsbD_eq; intro i hi
  simp [hi, fieldImm2]

@[simp] theorem fieldImm_and (v w : Command) : fieldImm (v &&& w) = fieldImm v &&& fieldImm w := by
  apply BitVec.eq_of_getLsbD_eq; intro i hi
  simp [hi, fieldImm]

end Fields

/-! ### The patterns of R43 as packed words -/

/-- R43, the columns of used fields: 0 in the mask where the row uses the field. -/
theorem rowMask_eq_packFields (o : Opcode) : rowMask o =
    match o with
    | .add | .sub | .mov | .wreg =>
      packFields (BitVec.allOnes 4) 0 (BitVec.allOnes 4) (BitVec.allOnes 4) (BitVec.allOnes 32) 0
    | .mul => packFields (BitVec.allOnes 4) 0 0 (BitVec.allOnes 4) (BitVec.allOnes 32) (BitVec.allOnes 32)
    | .rand => packFields (BitVec.allOnes 4) 0 (BitVec.allOnes 4) (BitVec.allOnes 4) 0 0
    | .reset => packFields (BitVec.allOnes 4) (BitVec.allOnes 4) (BitVec.allOnes 4) (BitVec.allOnes 4)
        (BitVec.allOnes 32) (BitVec.allOnes 32)
    | .wflg => packFields (BitVec.allOnes 4) (BitVec.allOnes 4) (BitVec.allOnes 4) 0 (BitVec.allOnes 32)
        0xFFFFFFF0 := by
  cases o <;> decide

/-- R43: the match of a row is its opcode over zeros. -/
theorem rowMatch_eq_packFields (o : Opcode) : rowMatch o =
    match o with
    | .add => packFields 0x1 0 0 0 0 0
    | .sub => packFields 0x2 0 0 0 0 0
    | .mul => packFields 0x3 0 0 0 0 0
    | .mov => packFields 0x4 0 0 0 0 0
    | .rand => packFields 0x5 0 0 0 0 0
    | .reset => packFields 0x6 0 0 0 0 0
    | .wreg => packFields 0x7 0 0 0 0 0
    | .wflg => packFields 0x8 0 0 0 0 0 := by
  cases o <;> decide

@[simp] theorem and_ones4 (x : BitVec 4) : x &&& 15#4 = x := by
  have h : 15#4 = BitVec.allOnes 4 := by decide
  rw [h, BitVec.and_allOnes]

@[simp] theorem and_ones32 (x : Word) : x &&& 4294967295#32 = x := by
  have h : 4294967295#32 = BitVec.allOnes 32 := by decide
  rw [h, BitVec.and_allOnes]

/-- `imm[31:4]` is all zero exactly when the bits WFLG's mask covers are. -/
theorem and_high28_eq_zero (x : Word) : x &&& 0xFFFFFFF0#32 = 0#32 ↔ x.extractLsb' 4 28 = 0 := by
  have hm : 0xFFFFFFF0#32 = BitVec.allOnes 32 <<< 4 := by decide
  rw [hm]
  constructor <;> intro h <;> apply BitVec.eq_of_getLsbD_eq <;> intro i hi
  · have := congrArg (fun y => y.getLsbD (4 + i)) h
    simp only [BitVec.getLsbD_and, BitVec.getLsbD_shiftLeft, BitVec.getLsbD_allOnes, BitVec.getLsbD_extractLsb',
      BitVec.getLsbD_zero] at this ⊢
    grind
  · have := congrArg (fun y => y.getLsbD (i - 4)) h
    simp only [BitVec.getLsbD_and, BitVec.getLsbD_shiftLeft, BitVec.getLsbD_allOnes, BitVec.getLsbD_extractLsb',
      BitVec.getLsbD_zero] at this ⊢
    grind

/-- `imm[31:4]` of a word. -/
theorem extract_imm_high (w : Command) : (fieldImm w).extractLsb' 4 28 = w.extractLsb' 4 28 := by
  apply BitVec.eq_of_getLsbD_eq; intro i hi
  simp [fieldImm]

/-- Flag values widened to an immediate leave `imm[31:4]` zero. -/
theorem setWidth_flags_and_high (f : FlagField) : f.setWidth 32 &&& 0xFFFFFFF0#32 = 0#32 := by
  revert f; decide

/-! ### Opcodes -/

/-- The opcode number of each row (R42). -/
theorem opcodeOf_eq_some (n : BitVec 4) (o : Opcode) :
    opcodeOf n = some o ↔ n = fieldOp (rowMatch o) := by
  cases o <;> (revert n; decide)

/-- The opcode numbers that are unallocated (R46). -/
theorem opcodeOf_eq_none (n : BitVec 4) : opcodeOf n = none ↔ n.toNat = 0 ∨ 9 ≤ n.toNat := by
  revert n; decide

/-- A word has only the pattern of its own opcode. -/
theorem opcodeOf_of_fits {w : Command} {o : Opcode} (h : w &&& rowMask o = rowMatch o) :
    opcodeOf (fieldOp w) = some o := by
  have h1 : fieldOp (w &&& rowMask o) = fieldOp (rowMatch o) := by rw [h]
  rw [fieldOp_and] at h1
  have h2 : fieldOp (rowMask o) = BitVec.allOnes 4 := by cases o <;> decide
  rw [h2, BitVec.and_allOnes] at h1
  exact (opcodeOf_eq_some _ _).2 h1

/-! ### What the decoder answers -/

/-- One lemma for the decoder (R48): either the opcode is unallocated, or the word misses its row's pattern, or a register
field it uses is above 7, or it is the command of its opcode. -/
theorem decode_cases (w : Command) :
    (opcodeOf (fieldOp w) = none ∧ decode w = .error .unrecognized) ∨
    ∃ o, opcodeOf (fieldOp w) = some o ∧
      ((w &&& rowMask o ≠ rowMatch o ∧ decode w = .error .mustBeZero) ∨
        (w &&& rowMask o = rowMatch o ∧ (commandOf o w).wf = false ∧ decode w = .error .registerRange) ∨
        (w &&& rowMask o = rowMatch o ∧ (commandOf o w).wf = true ∧ decode w = .ok (commandOf o w))) := by
  unfold decode
  cases ho : opcodeOf (fieldOp w) with
  | none => simp
  | some o =>
    refine .inr ⟨o, rfl, ?_⟩
    by_cases hm : w &&& rowMask o = rowMatch o
    · cases hd : regFieldOk (fieldRd w) <;> cases hs : regFieldOk (fieldRs w) <;> cases o <;>
        simp_all [usesRd, usesRs, commandOf, Instr.wf]
    · simp [hm]

end Sys2Proof
end

