-- ==== Sys2Proof/Laws/Flags.lean ====
section
/-! SUPPORT. The readings of a word that the flag generators rest on (00_scope.md R10). -/

namespace Sys2Proof.Machine

/-- Bit 31 is the most significant bit. -/
theorem signBit_eq_msb (x : Word) : signBit x = x.msb := by
  simp [signBit, BitVec.msb_eq_getLsbD_last]

/-- The signed reading of R10 is two's complement. -/
@[simp] theorem sint_eq_toInt (x : Word) : sint x = x.toInt := by
  rw [sint, signBit_eq_msb, BitVec.toInt_eq_msb_cond]
  rfl

/-- The bits of the packed flags are N, Z, C, V from bit 3 down (R20). -/
theorem packFlags_bits (f : Flags) :
    (packFlags f).getLsbD 3 = f.n ∧ (packFlags f).getLsbD 2 = f.z ∧ (packFlags f).getLsbD 1 = f.c ∧
      (packFlags f).getLsbD 0 = f.v := by
  obtain ⟨n, z, c, v⟩ := f
  cases n <;> cases z <;> cases c <;> cases v <;> decide

/-- A word whose N flag is set is not zero. -/
theorem negFlag_of_zeroFlag (x : Word) (h : zeroFlag x = true) : negFlag x = false := by
  have : x = 0 := by simpa [zeroFlag] using h
  subst this; decide

end Sys2Proof.Machine
end

