-- ==== Sys2Proof/Laws/HostText.lean ====
section
/-! SUPPORT. The small lemmas of the host's text: how a register ref is read, what a skipped line is, that it is never
a refused one, and what a numbered line answers. -/

namespace Sys2Proof.Machine

theorem decimal_of_digits {t : Text} (hne : t ≠ []) (h : t.all Char.isDigit = true) :
    decimal t = some (Nat.ofDigitChars 10 t 0) := if_pos ⟨hne, h⟩

theorem decimal_of_not_digits {t : Text} (h : t.all Char.isDigit = false) : decimal t = none :=
  if_neg fun hd => Bool.false_ne_true (h.symm.trans hd.2)

/-- A text of digits alone is empty or has a digit. -/
theorem eq_nil_of_digits {t : Text} (h : t.all Char.isDigit = true) (hany : t.any Char.isDigit = false) : t = [] := by
  cases t with
  | nil => rfl
  | cons c cs =>
    rw [List.all_cons, Bool.and_eq_true] at h
    rw [List.any_cons, h.1] at hany
    cases hany

/-- I7: the text's own description of the refs a transcriber refuses. -/
theorem unshownIndex_iff (t : Text) : unshownIndex t = true ↔ UnshownIndex t := by
  cases hall : (stripPrefix t).all Char.isDigit with
  | false => simp only [unshownIndex, decimal_of_not_digits hall, UnshownIndex, hall]; simp
  | true =>
    by_cases hne : stripPrefix t = []
    · simp [unshownIndex, UnshownIndex, hne, decimal]
    · simp only [unshownIndex, decimal_of_digits hne hall, UnshownIndex, hall]; simp

theorem readRef_of_unshown {t : Text} (h : UnshownIndex t) : readRef t = .error (.registerSpelling t) :=
  if_pos ((unshownIndex_iff t).2 h)

theorem readRef_of_not_unshown {t : Text} (h : ¬ UnshownIndex t) : readRef t = .ok (regRef t) :=
  if_neg (mt (unshownIndex_iff t).1 h)

theorem RejectedIndex.not_unshown {t : Text} (h : RejectedIndex t) : ¬ UnshownIndex t := by
  obtain hno | ⟨hall, -, hle⟩ := h
  · rintro (⟨hany, -⟩ | ⟨hall, hbig⟩)
    · exact Bool.false_ne_true (hno.symm.trans hany)
    · simp [eq_nil_of_digits hall hno] at hbig
  · rintro (⟨-, hnot⟩ | ⟨-, hbig⟩)
    · exact Bool.false_ne_true (hnot.symm.trans hall)
    · omega

/-- A rejected ref is read, as no register. -/
theorem readRef_of_rejected {t : Text} (h : RejectedIndex t) : readRef t = .ok none := by
  rw [readRef_of_not_unshown h.not_unshown]
  obtain hno | ⟨hall, hge, -⟩ := h
  · cases hall : (stripPrefix t).all Char.isDigit with
    | false => simp [regRef, decimal_of_not_digits hall]
    | true => simp [regRef, eq_nil_of_digits hall hno, decimal]
  · have hne : stripPrefix t ≠ [] := fun h => by simp [h] at hge
    simp [regRef, decimal_of_digits hne hall, Nat.not_lt.2 hge]

/-- A ref that names a register is read as that register. -/
theorem readRef_of_regRef {t : Text} {r : RegField} (h : regRef t = some r) : readRef t = .ok (some r) := by
  have hu : ¬ unshownIndex t = true := by
    unfold regRef at h
    unfold unshownIndex
    cases hd : decimal (stripPrefix t) with
    | none => simp [hd] at h
    | some n =>
      simp only [hd, Option.ite_none_right_eq_some] at h
      simp only [decide_eq_true_eq]
      omega
  rw [readRef, if_neg hu, h]

/-- R56, the words of the rule. -/
theorem scriptSkips_iff (line : Text) :
    scriptSkips line = true ↔ line.dropWhile isSpace = [] ∨ (line.dropWhile isSpace).head? = some '#' := by
  unfold scriptSkips
  split <;> rename_i h <;> simp [h]

/-- Leading white space makes no token (R50). -/
theorem tokens_dropWhile_isSpace (line : Text) : tokens (line.dropWhile isSpace) = tokens line := by
  induction line with
  | nil => rfl
  | cons c cs ih =>
    by_cases h : isSpace c = true
    · rw [List.dropWhile_cons_of_pos h, ih]
      simp [tokens, tokensFrom, h]
    · rw [List.dropWhile_cons_of_neg h]

/-- A token that has begun is the first one, with the character it began with. -/
theorem tokensFrom_begun (cs cur : Text) (c : Char) : ∃ w ts, tokensFrom (cur ++ [c]) cs = (c :: w) :: ts := by
  induction cs generalizing cur with
  | nil => exact ⟨cur.reverse, [], by simp [tokensFrom]⟩
  | cons d ds ih =>
    by_cases h : isSpace d = true
    · exact ⟨cur.reverse, tokensFrom [] ds, by simp [tokensFrom, h]⟩
    · simpa [tokensFrom, h] using ih (d :: cur)

/-- A line that a script skips is not one that a transcriber refuses. -/
theorem assembleLine_of_scriptSkips {line : Text} (h : scriptSkips line = true) : ∃ x, assembleLine line = .ok x := by
  unfold assembleLine
  rw [← tokens_dropWhile_isSpace]
  obtain h | h := (scriptSkips_iff line).1 h
  · rw [h]
    exact ⟨_, rfl⟩
  · obtain ⟨cs, hcs⟩ := List.head?_eq_some_iff.1 h
    obtain ⟨w, ts, hw⟩ := tokensFrom_begun cs [] '#'
    have ht : tokens ('#' :: cs) = ('#' :: w) :: ts := by simpa [tokens, tokensFrom, isSpace] using hw
    have hk : keywordOf (('#' :: w).map Char.toLower) = none := by
      have hc : Char.toLower '#' = '#' := by decide
      simp [keywordOf, hc]
    rw [hcs, ht]
    exact ⟨_, by simp only [hk]; rfl⟩

theorem numberedLine_of_ok {line : Text} {x : HostLine} (n : Nat) (h : assembleLine line = .ok x) :
    numberedLine n line = .ok x := by simp [numberedLine, h]

theorem numberedLine_of_error {line : Text} {r : LineRefusal} (n : Nat) (h : assembleLine line = .error r) :
    numberedLine n line = .error { number := n, line := line, reason := r } := by simp [numberedLine, h]

theorem scriptFrom_skip {line : Text} (n : Nat) (rest : List Text) (h : scriptSkips line = true) :
    scriptFrom n (line :: rest) = scriptFrom (n + 1) rest := by simp [scriptFrom, h]

/-- A refused line is not skipped, and refuses the script from it on. -/
theorem scriptFrom_refused {line : Text} {r : LineRefusal} (n : Nat) (rest : List Text) (h : assembleLine line = .error r) :
    scriptFrom n (line :: rest) = .error { number := n, line := line, reason := r } := by
  have hs : ¬ scriptSkips line = true := fun hs => by
    obtain ⟨x, hx⟩ := assembleLine_of_scriptSkips hs
    rw [h] at hx
    cases hx
  simp only [scriptFrom, if_neg hs, numberedLine_of_error n h]

end Sys2Proof.Machine
end

