-- ==== Sys2Proof/Laws/State.lean ====
section
/-! SUPPORT. One lemma per field per update of State, so that no later proof unfolds a record update. -/

namespace Sys2Proof.Machine

/-! ### writeReg -/

@[simp] theorem State.writeReg_regs (s : State) (i : RegIx) (v : Word) : (s.writeReg i v).regs = s.regs.set i v := rfl

@[simp] theorem State.writeReg_flags (s : State) (i : RegIx) (v : Word) : (s.writeReg i v).flags = s.flags := rfl

@[simp] theorem State.writeReg_turn (s : State) (i : RegIx) (v : Word) : (s.writeReg i v).turn = s.turn := rfl

@[simp] theorem State.writeReg_rspValid (s : State) (i : RegIx) (v : Word) : (s.writeReg i v).rspValid = s.rspValid := rfl

@[simp] theorem State.writeReg_rspStatus (s : State) (i : RegIx) (v : Word) : (s.writeReg i v).rspStatus = s.rspStatus := rfl

@[simp] theorem State.writeReg_rspZeroed (s : State) (i : RegIx) (v : Word) : (s.writeReg i v).rspZeroed = s.rspZeroed := rfl

@[simp] theorem State.writeReg_pins (s : State) (i : RegIx) (v : Word) : (s.writeReg i v).pins = s.pins := rfl

@[simp] theorem State.writeReg_later (s : State) (i : RegIx) (v : Word) : (s.writeReg i v).later = s.later := rfl

/-! ### setFlags -/

@[simp] theorem State.setFlags_regs (s : State) (f : Flags) : (s.setFlags f).regs = s.regs := rfl

@[simp] theorem State.setFlags_flags (s : State) (f : Flags) : (s.setFlags f).flags = f := rfl

@[simp] theorem State.setFlags_turn (s : State) (f : Flags) : (s.setFlags f).turn = s.turn := rfl

@[simp] theorem State.setFlags_rspValid (s : State) (f : Flags) : (s.setFlags f).rspValid = s.rspValid := rfl

@[simp] theorem State.setFlags_rspStatus (s : State) (f : Flags) : (s.setFlags f).rspStatus = s.rspStatus := rfl

@[simp] theorem State.setFlags_rspZeroed (s : State) (f : Flags) : (s.setFlags f).rspZeroed = s.rspZeroed := rfl

@[simp] theorem State.setFlags_pins (s : State) (f : Flags) : (s.setFlags f).pins = s.pins := rfl

@[simp] theorem State.setFlags_later (s : State) (f : Flags) : (s.setFlags f).later = s.later := rfl

/-! ### countTurn -/

@[simp] theorem State.countTurn_regs (s : State) : (s.countTurn).regs = s.regs := rfl

@[simp] theorem State.countTurn_flags (s : State) : (s.countTurn).flags = s.flags := rfl

@[simp] theorem State.countTurn_turn (s : State) : (s.countTurn).turn = s.turn + 1 := rfl

@[simp] theorem State.countTurn_rspValid (s : State) : (s.countTurn).rspValid = s.rspValid := rfl

@[simp] theorem State.countTurn_rspStatus (s : State) : (s.countTurn).rspStatus = s.rspStatus := rfl

@[simp] theorem State.countTurn_rspZeroed (s : State) : (s.countTurn).rspZeroed = s.rspZeroed := rfl

@[simp] theorem State.countTurn_pins (s : State) : (s.countTurn).pins = s.pins := rfl

@[simp] theorem State.countTurn_later (s : State) : (s.countTurn).later = s.later := rfl

/-! ### resetBank -/

@[simp] theorem State.resetBank_regs (s : State) : (s.resetBank).regs = resetRegs := rfl

@[simp] theorem State.resetBank_flags (s : State) : (s.resetBank).flags = resetFlags := rfl

@[simp] theorem State.resetBank_turn (s : State) : (s.resetBank).turn = 0 := rfl

@[simp] theorem State.resetBank_rspValid (s : State) : (s.resetBank).rspValid = s.rspValid := rfl

@[simp] theorem State.resetBank_rspStatus (s : State) : (s.resetBank).rspStatus = s.rspStatus := rfl

@[simp] theorem State.resetBank_rspZeroed (s : State) : (s.resetBank).rspZeroed = s.rspZeroed := rfl

@[simp] theorem State.resetBank_pins (s : State) : (s.resetBank).pins = s.pins := rfl

@[simp] theorem State.resetBank_later (s : State) : (s.resetBank).later = s.later := rfl

/-! ### respond -/

@[simp] theorem State.respond_regs (s : State) (st : Status) (z : Option RegIx) : (s.respond st z).regs = s.regs := rfl

@[simp] theorem State.respond_flags (s : State) (st : Status) (z : Option RegIx) : (s.respond st z).flags = s.flags := rfl

@[simp] theorem State.respond_turn (s : State) (st : Status) (z : Option RegIx) : (s.respond st z).turn = s.turn := rfl

@[simp] theorem State.respond_rspValid (s : State) (st : Status) (z : Option RegIx) : (s.respond st z).rspValid = true := rfl

@[simp] theorem State.respond_rspStatus (s : State) (st : Status) (z : Option RegIx) : (s.respond st z).rspStatus = st := rfl

@[simp] theorem State.respond_rspZeroed (s : State) (st : Status) (z : Option RegIx) : (s.respond st z).rspZeroed = z := rfl

@[simp] theorem State.respond_pins (s : State) (st : Status) (z : Option RegIx) : (s.respond st z).pins = s.pins := rfl

@[simp] theorem State.respond_later (s : State) (st : Status) (z : Option RegIx) : (s.respond st z).later = s.later := rfl

/-! ### refuse -/

@[simp] theorem State.refuse_regs (s : State) (st : Status) : (s.refuse st).regs = s.regs := rfl

@[simp] theorem State.refuse_flags (s : State) (st : Status) : (s.refuse st).flags = s.flags := rfl

@[simp] theorem State.refuse_turn (s : State) (st : Status) : (s.refuse st).turn = s.turn := rfl

@[simp] theorem State.refuse_rspValid (s : State) (st : Status) : (s.refuse st).rspValid = true := rfl

@[simp] theorem State.refuse_rspStatus (s : State) (st : Status) : (s.refuse st).rspStatus = st := rfl

@[simp] theorem State.refuse_rspZeroed (s : State) (st : Status) : (s.refuse st).rspZeroed = none := rfl

@[simp] theorem State.refuse_pins (s : State) (st : Status) : (s.refuse st).pins = s.pins := rfl

@[simp] theorem State.refuse_later (s : State) (st : Status) : (s.refuse st).later = s.later := rfl

/-! ### dropResponse -/

@[simp] theorem State.dropResponse_regs (s : State) : (s.dropResponse).regs = s.regs := rfl

@[simp] theorem State.dropResponse_flags (s : State) : (s.dropResponse).flags = s.flags := rfl

@[simp] theorem State.dropResponse_turn (s : State) : (s.dropResponse).turn = s.turn := rfl

@[simp] theorem State.dropResponse_rspValid (s : State) : (s.dropResponse).rspValid = false := rfl

@[simp] theorem State.dropResponse_rspStatus (s : State) : (s.dropResponse).rspStatus = s.rspStatus := rfl

@[simp] theorem State.dropResponse_rspZeroed (s : State) : (s.dropResponse).rspZeroed = s.rspZeroed := rfl

@[simp] theorem State.dropResponse_pins (s : State) : (s.dropResponse).pins = s.pins := rfl

@[simp] theorem State.dropResponse_later (s : State) : (s.dropResponse).later = s.later := rfl

/-! ### commit -/

@[simp] theorem State.commit_regs (s : State) (rd : RegIx) (res : Word) (f : Flags) : (s.commit rd res f).regs = s.regs.set rd res := rfl

@[simp] theorem State.commit_flags (s : State) (rd : RegIx) (res : Word) (f : Flags) : (s.commit rd res f).flags = f := rfl

@[simp] theorem State.commit_turn (s : State) (rd : RegIx) (res : Word) (f : Flags) : (s.commit rd res f).turn = s.turn + 1 := rfl

@[simp] theorem State.commit_rspValid (s : State) (rd : RegIx) (res : Word) (f : Flags) : (s.commit rd res f).rspValid = true := rfl

@[simp] theorem State.commit_rspStatus (s : State) (rd : RegIx) (res : Word) (f : Flags) : (s.commit rd res f).rspStatus = Status.ok := rfl

@[simp] theorem State.commit_rspZeroed (s : State) (rd : RegIx) (res : Word) (f : Flags) : (s.commit rd res f).rspZeroed = zeroEvent rd res := rfl

@[simp] theorem State.commit_pins (s : State) (rd : RegIx) (res : Word) (f : Flags) : (s.commit rd res f).pins = s.pins := rfl

@[simp] theorem State.commit_later (s : State) (rd : RegIx) (res : Word) (f : Flags) : (s.commit rd res f).later = s.later := rfl

/-! ### present -/

@[simp] theorem State.present_regs (s : State) (w : Command) : (s.present w).regs = s.regs := rfl

@[simp] theorem State.present_flags (s : State) (w : Command) : (s.present w).flags = s.flags := rfl

@[simp] theorem State.present_turn (s : State) (w : Command) : (s.present w).turn = s.turn := rfl

@[simp] theorem State.present_rspValid (s : State) (w : Command) : (s.present w).rspValid = s.rspValid := rfl

@[simp] theorem State.present_rspStatus (s : State) (w : Command) : (s.present w).rspStatus = s.rspStatus := rfl

@[simp] theorem State.present_rspZeroed (s : State) (w : Command) : (s.present w).rspZeroed = s.rspZeroed := rfl

@[simp] theorem State.present_pins (s : State) (w : Command) : (s.present w).pins = Pins.command w s.pins.rngValue := rfl

@[simp] theorem State.present_later (s : State) (w : Command) : (s.present w).later = s.later := rfl

/-! ### advancePins, which matches on the list of later edges -/

@[simp] theorem State.advancePins_regs (s : State) : s.advancePins.regs = s.regs := by
  unfold State.advancePins; split <;> rfl

@[simp] theorem State.advancePins_flags (s : State) : s.advancePins.flags = s.flags := by
  unfold State.advancePins; split <;> rfl

@[simp] theorem State.advancePins_turn (s : State) : s.advancePins.turn = s.turn := by
  unfold State.advancePins; split <;> rfl

@[simp] theorem State.advancePins_rspValid (s : State) : s.advancePins.rspValid = s.rspValid := by
  unfold State.advancePins; split <;> rfl

@[simp] theorem State.advancePins_rspStatus (s : State) : s.advancePins.rspStatus = s.rspStatus := by
  unfold State.advancePins; split <;> rfl

@[simp] theorem State.advancePins_rspZeroed (s : State) : s.advancePins.rspZeroed = s.rspZeroed := by
  unfold State.advancePins; split <;> rfl

@[simp] theorem State.advancePins_pins (s : State) : s.advancePins.pins = s.later.headD Pins.idle := by
  unfold State.advancePins; split <;> simp_all

@[simp] theorem State.advancePins_later (s : State) : s.advancePins.later = s.later.tail := by
  unfold State.advancePins; split <;> simp_all

/-! ### driven -/

@[simp] theorem State.driven_regs (s : State) (ps : List Pins) : (s.driven ps).regs = s.regs := by
  simp [State.driven]

@[simp] theorem State.driven_flags (s : State) (ps : List Pins) : (s.driven ps).flags = s.flags := by
  simp [State.driven]

@[simp] theorem State.driven_turn (s : State) (ps : List Pins) : (s.driven ps).turn = s.turn := by
  simp [State.driven]

@[simp] theorem State.driven_rspValid (s : State) (ps : List Pins) : (s.driven ps).rspValid = s.rspValid := by
  simp [State.driven]

@[simp] theorem State.driven_rspStatus (s : State) (ps : List Pins) : (s.driven ps).rspStatus = s.rspStatus := by
  simp [State.driven]

@[simp] theorem State.driven_rspZeroed (s : State) (ps : List Pins) : (s.driven ps).rspZeroed = s.rspZeroed := by
  simp [State.driven]

@[simp] theorem State.driven_pins (s : State) (ps : List Pins) : (s.driven ps).pins = ps.headD Pins.idle := by
  simp [State.driven]

@[simp] theorem State.driven_later (s : State) (ps : List Pins) : (s.driven ps).later = ps.tail := by
  simp [State.driven]

/-! ### The pins of a presented command -/

@[simp] theorem Pins.command_rst (w : Command) (d : Word) : (Pins.command w d).rst = false := rfl

@[simp] theorem Pins.command_cmdValid (w : Command) (d : Word) : (Pins.command w d).cmdValid = true := rfl

@[simp] theorem Pins.command_cmdWord (w : Command) (d : Word) : (Pins.command w d).cmdWord = w := rfl

@[simp] theorem Pins.command_rngValue (w : Command) (d : Word) : (Pins.command w d).rngValue = d := rfl

/-! ### Two states are equal when their fields are -/

/-- Equal field by field. -/
theorem State.eq_of_fields {s t : State} (h1 : s.regs = t.regs) (h2 : s.flags = t.flags) (h3 : s.turn = t.turn)
    (h4 : s.rspValid = t.rspValid) (h5 : s.rspStatus = t.rspStatus) (h6 : s.rspZeroed = t.rspZeroed)
    (h7 : s.pins = t.pins) (h8 : s.later = t.later) : s = t := by
  cases s; cases t; simp_all

/-- A write of one register is read back, and leaves every other register alone. -/
theorem State.writeReg_getElem (s : State) (i j : RegIx) (v : Word) :
    (s.writeReg i v).regs[j] = if i = j then v else s.regs[j] := by
  simp [Vector.getElem_set, Fin.ext_iff]

/-- Every register of the reset bank is 100 (R30). -/
@[simp] theorem resetRegs_getElem (i : RegIx) : resetRegs[i] = 100 := by
  simp [resetRegs]

end Sys2Proof.Machine
end

