-- ==== Sys2Proof/Laws/Ops.lean ====
section
/-! SUPPORT. What the shared operations can do, said once: operand fields, the range of RAND, a command turned away, the
commit, and the inversion of exec and of the edge. -/

namespace Sys2Proof.Machine

/-! ### Operand fields -/

theorem regIndex_of_lt {f : RegField} (h : f.toNat < 8) : regIndex f = some ⟨f.toNat, h⟩ := by
  simp [regIndex, h]

theorem regIndex_of_ge {f : RegField} (h : 8 ≤ f.toNat) : regIndex f = none := by
  simp [regIndex, h]

theorem regIndex_eq_some {f : RegField} {i : RegIx} : regIndex f = some i ↔ f.toNat = i.val := by
  unfold regIndex
  split <;> rename_i h
  · simp [Fin.ext_iff]
  · have := i.isLt
    simp only [reduceCtorEq, false_iff]; omega

theorem withReg_of_lt {f : RegField} (h : f.toNat < 8) (s : State) (k : RegIx → Result) :
    withReg f s k = k ⟨f.toNat, h⟩ := by
  simp [withReg, regIndex_of_lt h]

theorem withReg_of_ge {f : RegField} (h : 8 ≤ f.toNat) (s : State) (k : RegIx → Result) :
    withReg f s k = .next (s.refuse .usage) := by
  simp [withReg, regIndex_of_ge h]

/-! ### The range of RAND (R74, R76) -/

theorem rangeLo_toNat (a b : Word) : (rangeLo a b).toNat = min a.toNat b.toNat := by
  unfold rangeLo; split <;> omega

theorem rangeHi_toNat (a b : Word) : (rangeHi a b).toNat = max a.toNat b.toNat := by
  unfold rangeHi; split <;> omega

theorem drawInRange_iff (a b d : Word) :
    drawInRange a b d = true ↔ min a.toNat b.toNat ≤ d.toNat ∧ d.toNat ≤ max a.toNat b.toNat := by
  simp only [drawInRange, rangeLo_toNat, rangeHi_toNat, Bool.and_eq_true, decide_eq_true_eq]

/-! ### How a command ends -/

theorem zeroEvent_eq_some {rd r : RegIx} {res : Word} : zeroEvent rd res = some r ↔ rd = r ∧ res = 0 := by
  unfold zeroEvent; split <;> simp_all

/-- A command turned away writes its response and nothing else (R83). -/
theorem refuse_turnedAway (s : State) (st : Status) : TurnedAway s (s.refuse st) st :=
  ⟨⟨rfl, rfl, rfl⟩, ⟨rfl, rfl⟩, rfl, rfl, rfl⟩

/-- All that the commit of a computing command does (R59). -/
theorem commit_commitsTo (s : State) (rd : RegIx) (res : Word) (f : Flags) :
    CommitsTo s (s.commit rd res f) rd res f.n f.z f.c f.v := by
  refine ⟨by simp, fun i hi => ?_, rfl, rfl, rfl, rfl, ?_, ⟨rfl, rfl, rfl⟩, rfl, rfl⟩
  · simp only [State.commit_regs, Fin.getElem_fin]
    exact Vector.getElem_set_ne _ _ (fun h => hi (Fin.ext h.symm))
  · simp [BitVec.toNat_add]

/-- One lemma for exec: the command is a computing command that commits with N and Z of its result, a command turned away, or
one of the three bank control commands. -/
theorem exec_cases (i : Instr) (s : State) :
    (∃ f d res fl, isComputing i = true ∧ destination i = some f ∧ f.toNat = (d : RegIx).val ∧
      fl.n = negFlag res ∧ fl.z = zeroFlag res ∧ exec i s = .next (s.commit d res fl)) ∨
    (∃ st, st ≠ Status.ok ∧ exec i s = .next (s.refuse st)) ∨
    (i = .reset ∧ exec i s = .next (s.resetBank.respond .ok none)) ∨
    (∃ f d v, i = .wreg f v ∧ f.toNat = (d : RegIx).val ∧
      exec i s = .next ((s.writeReg d v).respond .ok none)) ∨
    (∃ fm f, i = .wflg fm f ∧
      exec i s = .next ((s.setFlags (mergeFlags fm f s.flags)).respond .ok none)) := by
  have hi : ∀ f : RegField, (∃ d, regIndex f = some d ∧ f.toNat = d.val) ∨ regIndex f = none := fun f => by
    cases h : regIndex f with
    | none => exact .inr rfl
    | some d => exact .inl ⟨d, rfl, regIndex_eq_some.1 h⟩
  cases i with
  | add rd imm =>
    obtain ⟨d, h, hd⟩ | h := hi rd
    · exact .inl ⟨rd, d, _, _, rfl, rfl, hd, rfl, rfl, by simp only [exec, execAdd, withReg, h]; rfl⟩
    · exact .inr (.inl ⟨.usage, by decide, by simp only [exec, execAdd, withReg, h]⟩)
  | sub rd imm =>
    obtain ⟨d, h, hd⟩ | h := hi rd
    · exact .inl ⟨rd, d, _, _, rfl, rfl, hd, rfl, rfl, by simp only [exec, execSub, withReg, h]; rfl⟩
    · exact .inr (.inl ⟨.usage, by decide, by simp only [exec, execSub, withReg, h]⟩)
  | mul rd rs =>
    obtain ⟨d, h, hd⟩ | h := hi rd
    · obtain ⟨e, g, _⟩ | g := hi rs
      · exact .inl ⟨rd, d, _, _, rfl, rfl, hd, rfl, rfl, by simp only [exec, execMul, withReg, h, g]; rfl⟩
      · exact .inr (.inl ⟨.usage, by decide, by simp only [exec, execMul, withReg, h, g]⟩)
    · exact .inr (.inl ⟨.usage, by decide, by simp only [exec, execMul, withReg, h]⟩)
  | mov rd imm =>
    obtain ⟨d, h, hd⟩ | h := hi rd
    · exact .inl ⟨rd, d, _, _, rfl, rfl, hd, rfl, rfl, by simp only [exec, execMov, withReg, h]; rfl⟩
    · exact .inr (.inl ⟨.usage, by decide, by simp only [exec, execMov, withReg, h]⟩)
  | rand rd a b =>
    obtain ⟨d, h, hd⟩ | h := hi rd
    · by_cases hr : drawInRange a b s.pins.rngValue = true
      · exact .inl ⟨rd, d, _, _, rfl, rfl, hd, rfl, rfl, by simp only [exec, execRand, withReg, h, hr, if_true]; rfl⟩
      · exact .inr (.inl ⟨.rngRange, by decide, by
          simp only [exec, execRand, withReg, h, hr, Bool.false_eq_true, if_false]⟩)
    · exact .inr (.inl ⟨.usage, by decide, by simp only [exec, execRand, withReg, h]⟩)
  | reset => exact .inr (.inr (.inl ⟨rfl, rfl⟩))
  | wreg rd imm =>
    obtain ⟨d, h, hd⟩ | h := hi rd
    · exact .inr (.inr (.inr (.inl ⟨rd, d, imm, rfl, hd, by simp only [exec, execWreg, withReg, h]⟩)))
    · exact .inr (.inl ⟨.usage, by decide, by simp only [exec, execWreg, withReg, h]⟩)
  | wflg fm f => exact .inr (.inr (.inr (.inr ⟨fm, f, rfl, rfl⟩)))

/-! ### The edge (R101) -/

/-- What follows an edge whose effect is a next state. -/
theorem step_of_edgeEffect {s t : State} (h : edgeEffect s = .next t) : step s = .next t.advancePins := by
  simp [step, clockEdge, h]

theorem edgeEffect_of_rst {s : State} (h : s.pins.rst = true) :
    edgeEffect s = .next s.resetBank.dropResponse := by
  simp [edgeEffect, h]

theorem edgeEffect_of_idle {s : State} (h : s.pins.rst = false) (hv : s.pins.cmdValid = false) :
    edgeEffect s = .next s.dropResponse := by
  simp [edgeEffect, h, hv]

theorem edgeEffect_of_command {s : State} {i : Instr} (h : s.pins.rst = false) (hv : s.pins.cmdValid = true)
    (hd : decode s.pins.cmdWord = .ok i) : edgeEffect s = exec i s := by
  simp [edgeEffect, acceptWord, h, hv, hd]

theorem edgeEffect_of_error {s : State} {e : DecodeError} (h : s.pins.rst = false) (hv : s.pins.cmdValid = true)
    (hd : decode s.pins.cmdWord = .error e) : edgeEffect s = .next (s.refuse (statusOf e)) := by
  simp [edgeEffect, acceptWord, h, hv, hd]

/-- No word that names no command ends with status OK. -/
theorem statusOf_ne_ok (e : DecodeError) : statusOf e ≠ .ok := by
  cases e <;> decide

end Sys2Proof.Machine
end

