-- ==== Sys2Proof/Laws/PerInstr.lean ====
section
/-! SUPPORT. Statements about every command as syntax, one lemma per constructor. -/

namespace Sys2Proof.Laws

/-- The row of the opcode table a command belongs to (30_encoding.md R42). -/
def rowOf : Instr → Opcode
  | .add _ _ => .add
  | .sub _ _ => .sub
  | .mul _ _ => .mul
  | .mov _ _ => .mov
  | .rand _ _ _ => .rand
  | .reset => .reset
  | .wreg _ _ => .wreg
  | .wflg _ _ => .wflg

/-- The word of a command has its row's pattern, and the fields its row uses hold the command's operands (R43). -/
def EncodeFillsItsRow.Statement (i : Instr) : Prop :=
  encode i &&& rowMask (rowOf i) = rowMatch (rowOf i) ∧ commandOf (rowOf i) (encode i) = i

/-- The statement for every command, by cases; the lemma of each constructor below is a case of it. -/
theorem encode_fills_its_row (i : Instr) : EncodeFillsItsRow.Statement i := by
  cases i <;>
    simp [EncodeFillsItsRow.Statement, eq_iff_fields, encode, rowOf, commandOf, rowMask_eq_packFields,
      rowMatch_eq_packFields, fieldFlags_eq, setWidth_flags_and_high]

theorem EncodeFillsItsRow.add (rd : RegField) (imm : Word) : EncodeFillsItsRow.Statement (.add rd imm) :=
  encode_fills_its_row _

theorem EncodeFillsItsRow.sub (rd : RegField) (imm : Word) : EncodeFillsItsRow.Statement (.sub rd imm) :=
  encode_fills_its_row _

theorem EncodeFillsItsRow.mul (rd rs : RegField) : EncodeFillsItsRow.Statement (.mul rd rs) :=
  encode_fills_its_row _

theorem EncodeFillsItsRow.mov (rd : RegField) (imm : Word) : EncodeFillsItsRow.Statement (.mov rd imm) :=
  encode_fills_its_row _

theorem EncodeFillsItsRow.rand (rd : RegField) (imm imm2 : Word) : EncodeFillsItsRow.Statement (.rand rd imm imm2) :=
  encode_fills_its_row _

theorem EncodeFillsItsRow.reset : EncodeFillsItsRow.Statement .reset :=
  encode_fills_its_row _

theorem EncodeFillsItsRow.wreg (rd : RegField) (imm : Word) : EncodeFillsItsRow.Statement (.wreg rd imm) :=
  encode_fills_its_row _

theorem EncodeFillsItsRow.wflg (fm f : FlagField) : EncodeFillsItsRow.Statement (.wflg fm f) :=
  encode_fills_its_row _

end Sys2Proof.Laws
end

