-- ==== Sys2Proof/Laws/Run.lean ====
section
/-! SUPPORT. Runs: the equations of run, that it is the run of Host/Core.lean, and that runs compose. -/

namespace Sys2Proof.Machine

@[simp] theorem run_zero (s : State) : run 0 s = .next s := rfl

theorem run_succ_of_step {s t : State} (h : step s = .next t) (k : Nat) : run (k + 1) s = run k t := by
  simp [run, h]

/-- A run of `j + k` edges is a run of `j` edges and then one of `k`. -/
theorem run_add {j : Nat} {s u : State} (h : run j s = .next u) (k : Nat) : run (j + k) s = run k u := by
  induction j generalizing s with
  | zero => cases h; simp
  | succ j ih =>
    rw [Nat.succ_add]
    simp only [run] at h ⊢
    split at h <;> simp_all

theorem coreRun_succ_of_step (M : Host.Core) {s t : M.State} (h : M.step s = .next t) (k : Nat) :
    M.run (k + 1) s = M.run k t := by
  simp [Host.Core.run, h]

theorem coreRun_succ_of_refused (M : Host.Core) {s : M.State} {r : M.Refusal} (h : M.step s = .refused r) (k : Nat) :
    M.run (k + 1) s = .refused r := by
  simp [Host.Core.run, h]

/-- The run of the host's interface. -/
theorem run_eq_core_run (k : Nat) (s : State) : run k s = Host.Core.run Sys2Proof.core k s := by
  induction k generalizing s with
  | zero => rfl
  | succ k ih =>
    cases h : step s with
    | next t => exact (run_succ_of_step h k).trans ((ih t).trans (coreRun_succ_of_step Sys2Proof.core h k).symm)
    | fault r => cases r
    | refused r =>
      have h1 : run (k + 1) s = .refused r := by simp [run, h]
      exact h1.trans (coreRun_succ_of_refused Sys2Proof.core h k).symm

end Sys2Proof.Machine
end

