-- ==== Sys2Proof/Tests/Slice0.lean ====
section
/-! SUPPORT. Small tests. Expected values are those of spec/: the words of 30_encoding.md R43 and R49 and the vectors of
95_test_vectors.md (named beside each test), none taken from the model. The last part shows, for every statement with
hypotheses, values that meet them. -/

namespace Sys2Proof.Machine

/-! ### Well-formedness: an ill-formed term for each check (R45) -/

theorem test_wf_add_rd : (Instr.add 8 1).wf = false := by decide

theorem test_wf_sub_rd : (Instr.sub 8 1).wf = false := by decide

theorem test_wf_mul_rd : (Instr.mul 8 0).wf = false := by decide

theorem test_wf_mul_rs : (Instr.mul 0 8).wf = false := by decide

theorem test_wf_mov_rd : (Instr.mov 15 1).wf = false := by decide

theorem test_wf_rand_rd : (Instr.rand 9 1 2).wf = false := by decide

theorem test_wf_wreg_rd : (Instr.wreg 8 1).wf = false := by decide

theorem test_wf_legal : (Instr.mul 7 7).wf = true ∧ (Instr.wflg 15 15).wf = true := by decide

/-! ### Decoding: every constructor, from the fields of R40 and R43 -/

theorem test_decode_add : decode 0x10000000000000000005 = .ok (.add 0 5) := rfl

theorem test_decode_sub : decode 0x27000000000000000065 = .ok (.sub 7 101) := rfl

theorem test_decode_mul : decode 0x36700000000000000000 = .ok (.mul 6 7) := rfl

theorem test_decode_mov : decode 0x410000000000FFFFFFFF = .ok (.mov 1 0xFFFFFFFF) := rfl

theorem test_decode_rand : decode 0x5400000000010000000A = .ok (.rand 4 10 1) := rfl

theorem test_decode_reset : decode 0x60000000000000000000 = .ok .reset := rfl

theorem test_decode_wreg : decode 0x7500000000000000002A = .ok (.wreg 5 42) := rfl

theorem test_decode_wflg : decode 0x8001000000000000000E = .ok (.wflg 0b0001 0b1110) := rfl

/-- A word put together bit by bit from R40: op 0101, rd 100, then rs, fm, imm2 = 1 and imm = 10. -/
theorem test_decode_rand_by_fields :
    decode (0b0101#4 ++ 0b0100#4 ++ 0b0000#4 ++ 0b0000#4 ++ 1#32 ++ 10#32) = .ok (.rand 4 10 1) := rfl

/-- 95_test_vectors.md, decoder and status: one rejection of each kind, and the order of the checks. -/
theorem test_decode_rejects :
    decode 0 = .error .unrecognized ∧ decode 0xF0000000000000000005 = .error .unrecognized ∧
    decode 0x80010000000000000010 = .error .mustBeZero ∧ decode 0x18100000000000000001 = .error .mustBeZero ∧
    decode 0x30800000000000000000 = .error .registerRange ∧
    decode 0xC8000000000000000000 = .error .unrecognized := ⟨rfl, rfl, rfl, rfl, rfl, rfl⟩

/-- R33: the bytes of `add r0 5`, least significant first. -/
theorem test_decode_bytes : decodeBytes [5, 0, 0, 0, 0, 0, 0, 0, 0, 0x10, 0xAA] = .ok (.add 0 5, [0xAA]) := rfl

theorem test_decode_bytes_short : decodeBytes [5, 0, 0] = .error .tooShort := rfl

theorem test_decode_table_word : decodeTableWord 80 0x33300000000000000000 = some (.mul 3 3) := rfl

/-! ### Commands: one accepted word on a small state -/

/-- The state after a next outcome. -/
def stateOf : Result → Option State
  | .next t => some t
  | .fault _ => none
  | .refused _ => none

/-- The state after one edge that accepts the word `w` with the draw `d`. -/
def afterWord (s : State) (w : Command) (d : Word) : Option State :=
  stateOf (step { s with pins := Pins.command w d })

/-- The reset state with the given values in r0 and r1. -/
def regs01 (a b : Word) : State := (State.reset.writeReg 0 a).writeReg 1 b

/-- The start state of the vectors of RESET, WREG and WFLG, as far as they read it: r0 = 0, r5 = 0xAA, flags 1011, turn 9. -/
def bankStart : State :=
  { (State.reset.writeReg 0 0).writeReg 5 0xAA with flags := { n := true, z := false, c := true, v := true }, turn := 9 }

/-- 95_test_vectors.md ADD: 0x80000000 + 0x80000000. -/
theorem test_add_carry_and_overflow :
    (afterWord (regs01 0x80000000 0) 0x10000000000080000000 0).map
      (fun t => (t.regs[0], packFlags t.flags, t.rspZeroed)) = some (0, 0b0111, some 0) := by decide

/-- 95_test_vectors.md ADD: 0x80000000 + 0xFFFFFFFF. -/
theorem test_add_negative_overflow :
    (afterWord (regs01 0x80000000 0) 0x100000000000FFFFFFFF 0).map
      (fun t => (t.regs[0], packFlags t.flags)) = some (0x7FFFFFFF, 0b0011) := by decide

/-- 95_test_vectors.md SUB: 0 - 0x80000000. -/
theorem test_sub_borrow_and_overflow :
    (afterWord (regs01 0 0) 0x20000000000080000000 0).map
      (fun t => (t.regs[0], packFlags t.flags)) = some (0x80000000, 0b1001) := by decide

/-- 95_test_vectors.md E1: `sub r0 100` from reset. -/
theorem test_sub_to_zero :
    (afterWord State.reset 0x20000000000000000064 0).map
      (fun t => (t.regs[0], packFlags t.flags, t.turn, t.rspZeroed)) = some (0, 0b0110, 1, some 0) := by decide

/-- 95_test_vectors.md MUL: (-2^15) x (-2^16). -/
theorem test_mul_carry_and_overflow :
    (afterWord (regs01 0xFFFF8000 0xFFFF0000) 0x30100000000000000000 0).map
      (fun t => (t.regs[0], packFlags t.flags)) = some (0x80000000, 0b1011) := by decide

/-- 95_test_vectors.md MUL: 0x00010000 x 0x00008000, C = 0 and V = 1. -/
theorem test_mul_unsigned_fit_only :
    (afterWord (regs01 0x00010000 0x00008000) 0x30100000000000000000 0).map
      (fun t => (t.regs[0], packFlags t.flags)) = some (0x80000000, 0b1001) := by decide

/-- 95_test_vectors.md MOV: 0x80000000 with all flags set before. -/
theorem test_mov_clears_carry_and_overflow :
    (afterWord { State.reset with flags := { n := true, z := true, c := true, v := true } } 0x40000000000080000000 0).map
      (fun t => (t.regs[0], packFlags t.flags)) = some (0x80000000, 0b1000) := by decide

/-- 95_test_vectors.md RAND: bounds 10 and 1, draw 5. -/
theorem test_rand_swapped_bounds :
    (afterWord State.reset 0x5000000000010000000A 5).map
      (fun t => (t.regs[0], t.turn, t.rspStatus)) = some (5, 1, .ok) := by decide

/-- 95_test_vectors.md RAND: bounds 1 and 10, draw 11. -/
theorem test_rand_out_of_range :
    (afterWord State.reset 0x50000000000A00000001 11).map
      (fun t => (t.regs[0], t.turn, t.rspStatus)) = some (100, 0, .rngRange) := by decide

/-- 95_test_vectors.md RESET. -/
theorem test_reset :
    (afterWord bankStart 0x60000000000000000000 0).map
      (fun t => (t.regs[0], t.regs[5], packFlags t.flags, t.turn, t.rspZeroed)) = some (100, 100, 0, 0, none) := by decide

/-- 95_test_vectors.md WREG: `WREG r5, 0`, no zero event. -/
theorem test_wreg_zero :
    (afterWord bankStart 0x75000000000000000000 0).map
      (fun t => (t.regs[5], packFlags t.flags, t.turn, t.rspZeroed)) = some (0, 0b1011, 9, none) := by decide

/-- 95_test_vectors.md WFLG: `WFLG 0b0001, 0b1110`. -/
theorem test_wflg_masked :
    (afterWord bankStart 0x8001000000000000000E 0).map (fun t => (packFlags t.flags, t.turn)) = some (0b1010, 9) := by
  decide

/-- 95_test_vectors.md decoder and status: ADD with rd = 8 is USAGE with nothing changed. -/
theorem test_usage_keeps_state :
    (afterWord bankStart 0x18000000000000000001 0).map
      (fun t => (t.regs[0], packFlags t.flags, t.turn, t.rspStatus)) = some (0, 0b1011, 9, .usage) := by decide

/-- The word the host places runs at the very next step. -/
theorem test_withFetchWord :
    (stateOf (step (State.reset.withFetchWord 80 0x410000000000FFFFFFFF))).map (fun t => (t.regs[1], t.turn)) =
      some (0xFFFFFFFF, 1) := by decide

/-! ### Host text (R50 to R58) -/

/-- 95_test_vectors.md E10. -/
theorem test_register_refs :
    assembleLine ['a', 'd', 'd', ' ', '3', ' ', '1'] = .ok (.issue (.add 3 1)) ∧
    assembleLine ['A', 'd', 'd', ' ', 'R', '3', ' ', '1'] = .ok (.issue (.add 3 1)) ∧
    assembleLine ['a', 'd', 'd', ' ', 'r', '8', ' ', '1'] = .ok .usageError ∧
    assembleLine ['a', 'd', 'd', ' ', 'x', ' ', '1'] = .ok .usageError := by decide

/-- `mov 0 0x1`, whose integer operand R52 refuses. -/
def hexLine : Text := ['m', 'o', 'v', ' ', '0', ' '] ++ ['0', 'x', '1']

/-- R52, R56: the third line of a script, after a comment and a command, is refused by name and line. -/
theorem test_refused_by_name_and_line :
    scriptLines [['#'], ['r', 'e', 's', 'e', 't'], hexLine, ['q', 'u', 'i', 't']] =
      .error { number := 3, line := hexLine, reason := .operandSpelling ['0', 'x', '1'] } := by decide

/-- I7, D19: an index in hex or with a sign is refused by name, at either place of `mul`. -/
theorem test_register_spelling_refused :
    assembleLine ['a', 'd', 'd', ' ', '0', 'x', '1', ' ', '1'] = .error (.registerSpelling ['0', 'x', '1']) ∧
    assembleLine ['m', 'u', 'l', ' ', 'r', '8', ' ', '+', '1'] = .error (.registerSpelling ['+', '1']) := by decide

/-- R54: an unknown keyword is unrecognized. -/
theorem test_unrecognized : assembleLine ['d', 'i', 'v', ' ', '0', ' ', '1'] = .ok .unrecognized := by decide

/-- 95_test_vectors.md P3: `WREG r6, 0`, `WFLG 0b1111, 0b1010` and `.word 0xF0000000000000000000`. -/
theorem test_tool_lines :
    toolLine (['W', 'R', 'E', 'G', ' '] ++ ['r', '6', ',', ' ', '0']) = some 0x76000000000000000000 ∧
    toolLine (['W', 'F', 'L', 'G', ' '] ++ ['0', 'b'] ++ List.replicate 4 '1' ++ [',', ' '] ++
      ['0', 'b', '1', '0', '1', '0']) = some 0x800F000000000000000A ∧
    toolLine (['.', 'w', 'o', 'r', 'd', ' '] ++ ['0', 'x', 'F'] ++ List.replicate 19 '0') =
      some 0xF0000000000000000000 := by decide

/-- R58: the digits of `.word` in either case, the most significant first. -/
theorem test_hex_digits : hexValue '9' = some 9 ∧ hexValue 'A' = some 10 ∧ hexValue 'f' = some 15 ∧ hexValue 'g' = none := by
  decide

/-- 95_test_vectors.md P6, rows 12 and 13: one WFLG per flag key. -/
theorem test_flag_commands : encode (flagCommand .c true) = 0x80020000000000000002 ∧
    encode (flagCommand .z false) = 0x80040000000000000000 := by decide

/-! ### Ports -/

/-- 95_test_vectors.md RAND: the bounds on `rng_lo` and `rng_hi`; and the one-hot zero event of r7. -/
theorem test_ports :
    rngLoPort 0x5400000000010000000A = 1 ∧ rngHiPort 0x5400000000010000000A = 10 ∧
    rngHiPort 0x10000000000000000005 = 0 ∧ oneHot (some 7) = 0x80 := by decide

/-! ### Witnesses: values that meet the hypotheses of each statement -/

/-- The pins of an edge that accepts `w`. -/
def accepting (w : Command) : State := { State.reset with pins := Pins.command w 0 }

theorem witness_DecodeOfEncodeIsInstr : WellFormed (.rand 7 0xFFFFFFFF 0) ∧ WellFormed (.wflg 15 15) := by decide

theorem witness_DecodedWordReencodesToItself : decode 0x37700000000000000000 = .ok (.mul 7 7) := rfl

theorem witness_IllFormedInstrIsRegisterRangeError : ¬ WellFormed (.mul 7 8) ∧ ¬ WellFormed (.add 15 0) := by decide

theorem witness_CommandBytesRoundTrip : 9 < 10 ∧ WellFormed (.add 7 0xFFFFFFFF) := by decide

theorem witness_AcceptedWordRunsItsCommand :
    (accepting 0x37700000000000000000).pins.rst = false ∧ (accepting 0x37700000000000000000).pins.cmdValid = true ∧
      decode (accepting 0x37700000000000000000).pins.cmdWord = .ok (.mul 7 7) := ⟨rfl, rfl, rfl⟩

/-- Each clause at the edges of its range: opcodes 0x0, 0x9 and 0xF, one unused bit, the register field 8 and 15. -/
theorem witness_RejectedWordReportsItsStatus :
    (accepting 0).pins.rst = false ∧ (accepting 0).pins.cmdValid = true ∧
    OpcodeUnallocated 0 ∧ OpcodeUnallocated 0x90000000000000000000 ∧ OpcodeUnallocated 0xFFFFFFFFFFFFFFFFFFFF ∧
    ¬ OpcodeUnallocated 0x10000000000000000000 ∧ ¬ OpcodeUnallocated 0x80000000000000000000 ∧
    UnusedFieldSet 0x10000000000100000000 ∧ UnusedFieldSet 0x80000000000000000010 ∧
    RegisterFieldHigh 0x18000000000000000000 ∧ RegisterFieldHigh 0x30F00000000000000000 := by decide

/-- Each clause: unallocated; a set unused field; a high register field alone; RAND with a draw outside its range; none. -/
theorem witness_StatusCodeIsTheFirstCauseInOrder :
    OpcodeUnallocated 0xC8000000000000000000 ∧
    (¬ OpcodeUnallocated 0x18100000000000000001 ∧ UnusedFieldSet 0x18100000000000000001) ∧
    (¬ OpcodeUnallocated 0x78000000000000000001 ∧ ¬ UnusedFieldSet 0x78000000000000000001 ∧
      RegisterFieldHigh 0x78000000000000000001) ∧
    (¬ OpcodeUnallocated 0x57000000000A00000001 ∧ ¬ UnusedFieldSet 0x57000000000A00000001 ∧
      ¬ RegisterFieldHigh 0x57000000000A00000001 ∧ (fieldOp 0x57000000000A00000001).toNat = 0x5 ∧
      max (fieldImm 0x57000000000A00000001).toNat (fieldImm2 0x57000000000A00000001).toNat < 11) ∧
    (¬ OpcodeUnallocated 0x8000000000000000000F ∧ ¬ UnusedFieldSet 0x8000000000000000000F ∧
      ¬ RegisterFieldHigh 0x8000000000000000000F ∧ (fieldOp 0x8000000000000000000F).toNat ≠ 0x5) := by decide

theorem witness_ResetInputReinitialisesBank : ({ accepting 0 with pins := { Pins.idle with rst := true } }).pins.rst = true :=
  rfl

theorem witness_IdleEdgeKeepsBank : State.reset.pins.rst = false ∧ State.reset.pins.cmdValid = false := by decide

theorem witness_ResetValuesOfTheBank : ({ bankStart with pins := { Pins.idle with rst := true } }).pins.rst = true := rfl

/-- Two states that agree on bank and pins and on nothing else. -/
theorem witness_StepDependsOnlyOnBankAndPins :
    BankKept bankStart { bankStart with rspValid := true, rspStatus := .usage, later := [Pins.idle] } ∧
      ({ bankStart with rspValid := true, rspStatus := .usage, later := [Pins.idle] }).pins = bankStart.pins ∧
      (afterWord bankStart 0 0).map (·.rspValid) = some true :=
  ⟨⟨rfl, rfl, rfl⟩, rfl, rfl⟩

theorem witness_DrawIgnoredByOtherOpcodes : (fieldOp (accepting 0x47000000000000000001).pins.cmdWord).toNat ≠ 0x5 := by
  decide

/-- ADD: a set unused field, a high register field, a legal word; register fields 7 and 8. -/
theorem witness_AddCommand :
    (fieldOp 0x10100000000000000001 = 0x1 ∧ UnusedFieldSet 0x10100000000000000001) ∧
    (fieldOp 0x18000000000000000001 = 0x1 ∧ ¬ UnusedFieldSet 0x18000000000000000001 ∧
      RegisterFieldHigh 0x18000000000000000001) ∧
    (fieldOp 0x170000000000FFFFFFFF = 0x1 ∧ ¬ UnusedFieldSet 0x170000000000FFFFFFFF ∧
      ¬ RegisterFieldHigh 0x170000000000FFFFFFFF) ∧
    (7 : RegField).toNat < 8 ∧ 8 ≤ (8 : RegField).toNat := by decide

theorem witness_SubCommand :
    (fieldOp 0x20010000000000000001 = 0x2 ∧ UnusedFieldSet 0x20010000000000000001) ∧
    (fieldOp 0x28000000000000000001 = 0x2 ∧ ¬ UnusedFieldSet 0x28000000000000000001 ∧
      RegisterFieldHigh 0x28000000000000000001) ∧
    (fieldOp 0x270000000000FFFFFFFF = 0x2 ∧ ¬ UnusedFieldSet 0x270000000000FFFFFFFF ∧
      ¬ RegisterFieldHigh 0x270000000000FFFFFFFF) ∧
    (7 : RegField).toNat < 8 ∧ 8 ≤ (8 : RegField).toNat := by decide

theorem witness_MulCommand :
    (fieldOp 0x30100000000000000001 = 0x3 ∧ UnusedFieldSet 0x30100000000000000001) ∧
    (fieldOp 0x30800000000000000000 = 0x3 ∧ ¬ UnusedFieldSet 0x30800000000000000000 ∧
      RegisterFieldHigh 0x30800000000000000000) ∧
    (fieldOp 0x37700000000000000000 = 0x3 ∧ ¬ UnusedFieldSet 0x37700000000000000000 ∧
      ¬ RegisterFieldHigh 0x37700000000000000000) ∧
    (7 : RegField).toNat < 8 ∧ (8 ≤ (0 : RegField).toNat ∨ 8 ≤ (8 : RegField).toNat) := by decide

theorem witness_MovCommand :
    (fieldOp 0x40010000000000000003 = 0x4 ∧ UnusedFieldSet 0x40010000000000000003) ∧
    (fieldOp 0x48000000000000000001 = 0x4 ∧ ¬ UnusedFieldSet 0x48000000000000000001 ∧
      RegisterFieldHigh 0x48000000000000000001) ∧
    (fieldOp 0x470000000000FFFFFFFF = 0x4 ∧ ¬ UnusedFieldSet 0x470000000000FFFFFFFF ∧
      ¬ RegisterFieldHigh 0x470000000000FFFFFFFF) ∧
    (7 : RegField).toNat < 8 ∧ 8 ≤ (8 : RegField).toNat := by decide

/-- RAND: the words, and draws at both ends of the range and just outside each. -/
theorem witness_RandCommand :
    (fieldOp 0x50100000000000000001 = 0x5 ∧ UnusedFieldSet 0x50100000000000000001) ∧
    (fieldOp 0x59000000000200000001 = 0x5 ∧ ¬ UnusedFieldSet 0x59000000000200000001 ∧
      RegisterFieldHigh 0x59000000000200000001) ∧
    (fieldOp 0x57FF0000000A00000001 = 0x5 ∧ fieldOp 0x57000000000A00000001 = 0x5 ∧
      ¬ UnusedFieldSet 0x57000000000A00000001 ∧ ¬ RegisterFieldHigh 0x57000000000A00000001) ∧
    (7 : RegField).toNat < 8 ∧ 8 ≤ (8 : RegField).toNat ∧
    (min (10 : Word).toNat (1 : Word).toNat ≤ (1 : Word).toNat ∧ (1 : Word).toNat ≤ max (10 : Word).toNat (1 : Word).toNat) ∧
    (min (10 : Word).toNat (1 : Word).toNat ≤ (10 : Word).toNat ∧ (10 : Word).toNat ≤ max (10 : Word).toNat (1 : Word).toNat) ∧
    (0 : Word).toNat < min (10 : Word).toNat (1 : Word).toNat ∧
    max (10 : Word).toNat (1 : Word).toNat < (11 : Word).toNat := by decide

theorem witness_ResetCommand :
    (fieldOp 0x60000000000000000001 = 0x6 ∧ (0x60000000000000000001 : Command).extractLsb' 0 76 ≠ 0) ∧
    (fieldOp 0x68000000000000000000 = 0x6 ∧ (0x68000000000000000000 : Command).extractLsb' 0 76 ≠ 0) ∧
    fieldOp 0x60000000000000000000 = 0x6 ∧ (0x60000000000000000000 : Command).extractLsb' 0 76 = 0 := by decide

theorem witness_WregCommand :
    (fieldOp 0x70000000000100000001 = 0x7 ∧ UnusedFieldSet 0x70000000000100000001) ∧
    (fieldOp 0x78000000000000000001 = 0x7 ∧ ¬ UnusedFieldSet 0x78000000000000000001 ∧
      RegisterFieldHigh 0x78000000000000000001) ∧
    (fieldOp 0x77000000000000000000 = 0x7 ∧ ¬ UnusedFieldSet 0x77000000000000000000 ∧
      ¬ RegisterFieldHigh 0x77000000000000000000) ∧
    (7 : RegField).toNat < 8 ∧ 8 ≤ (8 : RegField).toNat := by decide

theorem witness_WflgCommand :
    (fieldOp 0x81010000000000000001 = 0x8 ∧ UnusedFieldSet 0x81010000000000000001) ∧
    fieldOp 0x800F000000000000000F = 0x8 ∧ ¬ UnusedFieldSet 0x800F000000000000000F := by decide

/-- Register 7; a draw that is the only value admitted and the two beside it that are not. -/
theorem witness_RandBoundsInEitherOrder :
    (7 : RegField).toNat < 8 ∧
    ({ State.reset with pins := Pins.command 0 9 }).pins.rngValue = 9 ∧
    ({ State.reset with pins := Pins.command 0 8 }).pins.rngValue ≠ 9 ∧
    ({ State.reset with pins := Pins.command 0 10 }).pins.rngValue ≠ 9 := by decide

theorem witness_EveryDrawInRangeIsPossible :
    (7 : RegField).toNat < 8 ∧ min (0 : Word).toNat (0xFFFFFFFF : Word).toNat ≤ (0xFFFFFFFF : Word).toNat ∧
      (0xFFFFFFFF : Word).toNat ≤ max (0 : Word).toNat (0xFFFFFFFF : Word).toNat := by decide

/-- Two register fields at their bound: the hypotheses of AddCarryIsBit32OfTheSum, AddOverflowIffSignedSumOutOfRange,
SubCarryIsNoBorrow, SubOverflowIffSignedDifferenceOutOfRange, MulCarryIffHighHalfNotZero, MulOverflowIffTopBitsDiffer,
MulOfOneRegisterSquaresTheOldValue and ResultsAgreeUnderSignedReading. -/
theorem witness_register_fields : (7 : RegField).toNat < 8 ∧ (0 : RegField).toNat < 8 := by decide

theorem witness_NegativeAndZeroReadTheResultOnly :
    (7 : RegField).toNat < 8 ∧ Instr.mul 7 7 ∈ [Instr.add 7 1, Instr.sub 7 1, Instr.mul 7 7] := by decide

/-- A register changes at an edge with the reset input, and at one that executes a WREG of it. -/
theorem witness_RegistersWrittenOnlyByTheirCommands :
    (stateOf (step { bankStart with pins := { Pins.idle with rst := true } })).map (·.regs[5]) = some 100 ∧
    bankStart.regs[5] = 0xAA ∧ executedAt (Pins.command 0x75000000000000000000 0) = some (.wreg 5 0) ∧
    (afterWord bankStart 0x75000000000000000000 0).map (·.regs[5]) = some 0 := by decide

/-- Each clause: a computing command, a reset, a WFLG, and flags that change. -/
theorem witness_FlagsWrittenOnlyByTheirCommands :
    countsTurn (Pins.command 0x40000000000080000000 0) = true ∧
    reinitialises (Pins.command 0x60000000000000000000 0) = true ∧ reinitialises { Pins.idle with rst := true } = true ∧
    executedAt (Pins.command 0x800F000000000000000A 0) = some (.wflg 15 10) ∧
    (afterWord State.reset 0x800F000000000000000A 0).map (fun t => packFlags t.flags) = some 0b1010 := by decide

theorem witness_TurnCounterLaw :
    reinitialises { Pins.command 0 0 with rst := true } = true ∧
    (reinitialises (Pins.command 0x40000000000080000000 0) = false ∧
      countsTurn (Pins.command 0x40000000000080000000 0) = true) ∧
    (reinitialises (Pins.command 0x50000000000A00000001 11) = false ∧
      countsTurn (Pins.command 0x50000000000A00000001 11) = false) := by decide

theorem witness_ZeroEventExactlyForAComputedZero :
    (accepting 0x20000000000000000064).pins.rst = false ∧ (accepting 0x20000000000000000064).pins.cmdValid = true ∧
      countsTurn (accepting 0x20000000000000000064).pins = true := by decide

theorem witness_NonOkCommandChangesNothing :
    (accepting 0x90000000000000000000).pins.rst = false ∧ (accepting 0x90000000000000000000).pins.cmdValid = true ∧
      (afterWord State.reset 0x90000000000000000000 0).map (·.rspStatus) = some .unrecognized := by decide

/-- One edge that executes a computing command. -/
theorem witness_OldFlagsNeverInfluenceARun :
    ∃ p ∈ (edgesOf (accepting 0x40000000000080000000)).take 1, countsTurn p = true ∨ reinitialises p = true :=
  ⟨_, List.mem_singleton.2 rfl, .inl (by decide)⟩

/-- A safe state that shows a zero event, and a step from it. -/
theorem witness_EveryStepKeepsResponseInv :
    ResponseInv State.reset ∧ (afterWord State.reset 0x20000000000000000064 0).map (fun t => (t.rspValid, t.rspZeroed)) =
      some (true, some 0) :=
  ⟨fun h => (Bool.false_ne_true h).elim, by decide⟩

/-- Two edges without a reset, of which one counts a turn. -/
theorem witness_TurnCountsExecutedComputingCommands :
    ∀ p ∈ (edgesOf (State.reset.driven [Pins.command 0x40000000000080000000 0, Pins.command 0x75000000000000000000 0])).take 2,
      reinitialises p = false := by decide

/-- Both forms of a load, in the order in which they are written. -/
theorem witness_SaveThenLoadRestoresRegistersAndFlags :
    (loadWhole (outputs bankStart)).Perm (loadWhole (outputs bankStart)) ∧
      (loadCommands (saveEntries (outputs bankStart))).Perm (loadCommands (saveEntries (outputs bankStart))) ∧
      (loadWhole (outputs bankStart)).length = 9 ∧ (loadCommands (saveEntries (outputs bankStart))).length = 12 :=
  ⟨.refl _, .refl _, by decide, by decide⟩

theorem witness_PortsShowResponseAndRange :
    State.reset.rspZeroed = none ∧ State.reset.rspStatus = .ok ∧ (fieldOp (accepting 0x5FFF0000000100000002).pins.cmdWord).toNat = 0x5 ∧
      (fieldOp (accepting 0x40000000000000000001).pins.cmdWord).toNat ≠ 0x5 := by decide

theorem witness_RegisterRefsReadDecimalIndices :
    ['r'] ∈ [[], ['r'], ['R']] ∧ 'x' ∈ stripPrefix ['r', 'x'] ∧ 'x'.isDigit = false := by decide

theorem witness_CommandLinesIssueTheirCommands : ['R'] ∈ [[], ['r'], ['R']] := by decide

theorem witness_WrongOperandCountIsAUsageError :
    ([] : List Text).length ≠ operandCount .add ∧ [['1']].length ≠ operandCount .reset := by decide

theorem witness_OperandSpellingsAreReadOrRefused : 'x' ∈ ['0', 'x', '1'] ∧ 'x'.isDigit = false := by decide

/-- Each clause: indices in hex and just above 4294967295, indices 8 and 4294967295, a token without a digit, and a first ref
of `mul` that is read. -/
theorem witness_RegisterRefsAreRefusedOrUsageErrors :
    UnshownIndex ['r', '0', 'x', '1'] ∧ UnshownIndex ['4', '2', '9', '4', '9', '6', '7', '2', '9', '6'] ∧
    RejectedIndex ['r', '8'] ∧ RejectedIndex ['4', '2', '9', '4', '9', '6', '7', '2', '9', '5'] ∧ RejectedIndex ['x'] ∧
    ¬ UnshownIndex ['r', '7'] ∧ (unsignedInt ['1']).isSome = true ∧
    keywordOf (['m', 'u', 'l'].map Char.toLower) = some .mul ∧
    tokens ['m', 'u', 'l', ' ', 'r', '7', ' ', 'x'] = [['m', 'u', 'l'], ['r', '7'], ['x']] := by
  decide

/-- A first and a second integer operand that are refused, and a refused line after lines that are read. -/
theorem witness_RefusedLineIsNamedWithItsLine :
    (Keyword.mov ∈ [.add, .sub, .mov] ∧ keywordOf (['m', 'o', 'v'].map Char.toLower) = some .mov ∧
      tokens hexLine = [['m', 'o', 'v'], ['0'], ['0', 'x', '1']] ∧ unsignedInt ['0', 'x', '1'] = none) ∧
    (keywordOf (['r', 'a', 'n', 'd'].map Char.toLower) = some .rand ∧ unsignedInt ['-', '1'] = none ∧
      (unsignedInt ['1']).isSome = true ∧
      tokens ['r', 'a', 'n', 'd', ' ', '0', ' ', '1', ' ', '-', '1'] =
        [['r', 'a', 'n', 'd'], ['0'], ['1'], ['-', '1']]) ∧
    assembleLine hexLine = .error (.operandSpelling ['0', 'x', '1']) ∧ scriptFrom 1 [['#']] = .ok [] := by decide

end Sys2Proof.Machine
end

/-! ## What one edge does (R101), said once for all states with the same registers and pins -/

namespace Sys2Proof.Machine

/-! ### The command an edge executes -/

/-- A command executes only at an edge that accepts its word. -/
theorem accepts_of_executedAt {p : Pins} {i : Instr} (h : executedAt p = some i) :
    p.rst = false ∧ p.cmdValid = true := by
  unfold executedAt at h
  split at h
  · cases h
  · simp_all

/-- An accepted word that decodes executes its command; RAND alone may still end with another status than OK (R82). -/
theorem executedAt_of_decode {p : Pins} {i : Instr} (hr : p.rst = false) (hv : p.cmdValid = true)
    (hd : decode p.cmdWord = .ok i) (hi : ∀ rd a b, i ≠ .rand rd a b) : executedAt p = some i := by
  cases i with
  | rand rd a b => exact absurd rfl (hi rd a b)
  | _ => simp [executedAt, statusOfWord, hr, hv, hd, Except.toOption]

/-- RAND executes when the draw lies in its range (R74, R76). -/
theorem executedAt_of_decode_rand {p : Pins} {rd : RegField} {a b : Word} (hr : p.rst = false)
    (hv : p.cmdValid = true) (hd : decode p.cmdWord = .ok (.rand rd a b)) :
    executedAt p = if drawInRange a b p.rngValue then some (.rand rd a b) else none := by
  cases h : drawInRange a b p.rngValue <;> simp [executedAt, statusOfWord, hr, hv, hd, h, Except.toOption]

/-- A word that names no command executes none. -/
theorem executedAt_of_decode_error {p : Pins} {e : DecodeError} (hd : decode p.cmdWord = .error e) :
    executedAt p = none := by
  simp [executedAt, hd, Except.toOption]

theorem executedAt_of_rst {p : Pins} (h : p.rst = true) : executedAt p = none := by
  simp [executedAt, h]

theorem executedAt_of_idle {p : Pins} (h : p.cmdValid = false) : executedAt p = none := by
  simp [executedAt, h]

/-- A decoded command is well formed: the decoder makes the same checks first (R45, R48). -/
theorem wellFormed_of_decode {w : Command} {i : Instr} (hd : decode w = .ok i) : WellFormed i := by
  obtain ⟨-, h⟩ | ⟨o, -, ⟨-, h⟩ | ⟨-, -, h⟩ | ⟨-, hwf, h⟩⟩ := decode_cases w
  · simp [hd] at h
  · simp [hd] at h
  · simp [hd] at h
  · cases hd.symm.trans h
    exact hwf

theorem lt_of_regFieldOk {f : RegField} (h : regFieldOk f = true) : f.toNat < 8 :=
  of_decide_eq_true h

/-! ### The edges that count a turn, and those that reinitialise -/

theorem countsTurn_of_executedAt {p : Pins} {i : Instr} (h : executedAt p = some i) :
    countsTurn p = isComputing i := by
  simp [countsTurn, h]

theorem countsTurn_of_executedAt_none {p : Pins} (h : executedAt p = none) : countsTurn p = false := by
  simp [countsTurn, h]

theorem reinitialises_of_executedAt {p : Pins} {i : Instr} (h : executedAt p = some i) :
    reinitialises p = (i == .reset) := by
  simp [reinitialises, h, (accepts_of_executedAt h).1]

theorem reinitialises_of_executedAt_none {p : Pins} (h : executedAt p = none) : reinitialises p = p.rst := by
  simp [reinitialises, h]

theorem ne_reset_of_isComputing {i : Instr} (h : isComputing i = true) : (i == .reset) = false := by
  cases i with
  | reset => cases h
  | _ => rfl

/-! ### The action of an edge -/

/-- What an edge with the pins `p` can do to the bank and the response (R101, R18, R21): one constructor per kind of edge, each
with the command it executes. The action is a function of the state, whose values are fixed before the state is given. -/
inductive EdgeAction (p : Pins) : (State → State) → Prop
  /-- The reset input (R98). -/
  | rst (hr : p.rst = true) : EdgeAction p fun s => s.resetBank.dropResponse
  /-- No reset and no command (R94). -/
  | idle (hr : p.rst = false) (hv : p.cmdValid = false) : EdgeAction p fun s => s.dropResponse
  /-- A command turned away (R83). -/
  | refuse {st : Status} (hr : p.rst = false) (hv : p.cmdValid = true) (hx : executedAt p = none)
      (hst : st ≠ .ok) : EdgeAction p fun s => s.refuse st
  /-- An executed computing command (R59), with N and Z of its result (R60, R73). -/
  | commit {i : Instr} {f : RegField} {d : RegIx} {res : Word} {fl : Flags} (hx : executedAt p = some i)
      (hc : isComputing i = true) (hf : destination i = some f) (hd : f.toNat = d.val)
      (hn : fl.n = negFlag res) (hz : fl.z = zeroFlag res) : EdgeAction p fun s => s.commit d res fl
  /-- An executed RESET (R77). -/
  | reset (hx : executedAt p = some .reset) : EdgeAction p fun s => s.resetBank.respond .ok none
  /-- An executed WREG (R78). -/
  | wreg {f : RegField} {d : RegIx} {v : Word} (hx : executedAt p = some (.wreg f v)) (hd : f.toNat = d.val) :
      EdgeAction p fun s => (s.writeReg d v).respond .ok none
  /-- An executed WFLG (R79). -/
  | wflg {fm f : FlagField} (hx : executedAt p = some (.wflg fm f)) :
      EdgeAction p fun s => (s.setFlags (mergeFlags fm f s.flags)).respond .ok none

/-- A decoded command has one action for all states with the same registers and pins: nothing else of the state is read
(R19, R21). -/
theorem exec_edgeAction {s : State} {i : Instr} (hr : s.pins.rst = false) (hv : s.pins.cmdValid = true)
    (hd : decode s.pins.cmdWord = .ok i) :
    ∃ act, EdgeAction s.pins act ∧ ∀ u : State, u.regs = s.regs → u.pins = s.pins → exec i u = .next (act u) := by
  have hwf := wellFormed_of_decode hd
  have hx := executedAt_of_decode hr hv hd
  cases i with
  | add rd imm =>
    have h := lt_of_regFieldOk hwf
    refine ⟨_, .commit (d := ⟨rd.toNat, h⟩) (res := s.regs[rd.toNat] + imm)
      (fl := addFlags s.regs[rd.toNat] imm _) (hx nofun) rfl rfl rfl rfl rfl, fun u hu _ => ?_⟩
    simp [exec, execAdd, withReg_of_lt h, State.readReg, hu]
  | sub rd imm =>
    have h := lt_of_regFieldOk hwf
    refine ⟨_, .commit (d := ⟨rd.toNat, h⟩) (res := s.regs[rd.toNat] - imm)
      (fl := subFlags s.regs[rd.toNat] imm _) (hx nofun) rfl rfl rfl rfl rfl, fun u hu _ => ?_⟩
    simp [exec, execSub, withReg_of_lt h, State.readReg, hu]
  | mul rd rs =>
    obtain ⟨hrd, hrs⟩ := Bool.and_eq_true_iff.1 hwf
    have h := lt_of_regFieldOk hrd
    have g := lt_of_regFieldOk hrs
    refine ⟨_, .commit (d := ⟨rd.toNat, h⟩) (res := s.regs[rd.toNat] * s.regs[rs.toNat])
      (fl := mulFlags s.regs[rd.toNat] s.regs[rs.toNat] _) (hx nofun) rfl rfl rfl rfl rfl, fun u hu _ => ?_⟩
    simp [exec, execMul, withReg_of_lt h, withReg_of_lt g, State.readReg, hu]
  | mov rd imm =>
    have h := lt_of_regFieldOk hwf
    refine ⟨_, .commit (d := ⟨rd.toNat, h⟩) (res := imm) (fl := moveFlags imm) (hx nofun)
      rfl rfl rfl rfl rfl, fun u _ _ => ?_⟩
    simp [exec, execMov, withReg_of_lt h]
  | rand rd a b =>
    have h := lt_of_regFieldOk hwf
    have hx := executedAt_of_decode_rand hr hv hd
    by_cases hin : drawInRange a b s.pins.rngValue = true
    · rw [if_pos hin] at hx
      refine ⟨_, .commit (d := ⟨rd.toNat, h⟩) (res := s.pins.rngValue) (fl := moveFlags s.pins.rngValue)
        hx rfl rfl rfl rfl rfl, fun u _ hp => ?_⟩
      simp [exec, execRand, withReg_of_lt h, hp, hin]
    · rw [if_neg hin] at hx
      refine ⟨_, .refuse (st := .rngRange) hr hv hx (by decide), fun u _ hp => ?_⟩
      simp [exec, execRand, withReg_of_lt h, hp, hin]
  | reset =>
    exact ⟨_, .reset (hx nofun), fun _ _ _ => rfl⟩
  | wreg rd v =>
    have h := lt_of_regFieldOk hwf
    refine ⟨_, .wreg (d := ⟨rd.toNat, h⟩) (hx nofun) rfl, fun u _ _ => ?_⟩
    simp [exec, execWreg, withReg_of_lt h]
  | wflg fm f =>
    exact ⟨_, .wflg (hx nofun), fun _ _ _ => rfl⟩

/-- Every edge has one action for all states with the same registers and pins, and the step is total (R14, R86). -/
theorem step_edgeAction (s : State) :
    ∃ act, EdgeAction s.pins act ∧
      ∀ u : State, u.regs = s.regs → u.pins = s.pins → step u = .next (act u).advancePins := by
  cases hr : s.pins.rst with
  | true => exact ⟨_, .rst hr, fun u _ hp => step_of_edgeEffect (edgeEffect_of_rst (by rw [hp, hr]))⟩
  | false =>
    cases hv : s.pins.cmdValid with
    | false =>
      exact ⟨_, .idle hr hv, fun u _ hp =>
        step_of_edgeEffect (edgeEffect_of_idle (by rw [hp, hr]) (by rw [hp, hv]))⟩
    | true =>
      cases hd : decode s.pins.cmdWord with
      | error e =>
        exact ⟨_, .refuse hr hv (executedAt_of_decode_error hd) (statusOf_ne_ok e), fun u _ hp =>
          step_of_edgeEffect (edgeEffect_of_error (by rw [hp, hr]) (by rw [hp, hv]) (by rw [hp, hd]))⟩
      | ok i =>
        obtain ⟨act, hact, hexec⟩ := exec_edgeAction hr hv hd
        refine ⟨act, hact, fun u hu hp => step_of_edgeEffect ?_⟩
        rw [edgeEffect_of_command (by rw [hp, hr]) (by rw [hp, hv]) (by rw [hp, hd])]
        exact hexec u hu hp

/-! ### The flags after an edge (R17, R18) -/

section ActionOfAnEdge

variable {p : Pins} {act : State → State} (hact : EdgeAction p act)
include hact

/-- A computing command writes all four flags, whatever they were (R17). -/
theorem EdgeAction.setFlags_of_countsTurn (hc : countsTurn p = true) (s : State) (f : Flags) :
    act (s.setFlags f) = act s := by
  cases hact with
  | commit => rfl
  | rst hr => simp [countsTurn_of_executedAt_none (executedAt_of_rst hr)] at hc
  | idle _ hv => simp [countsTurn_of_executedAt_none (executedAt_of_idle hv)] at hc
  | refuse _ _ hx => simp [countsTurn_of_executedAt_none hx] at hc
  | reset hx | wreg hx | wflg hx => simp [countsTurn_of_executedAt hx, isComputing] at hc

/-- RESET and the reset input clear the flags (R18). -/
theorem EdgeAction.flags_of_reinitialises (hi : reinitialises p = true) (s : State) :
    (act s).flags = resetFlags := by
  cases hact with
  | rst | reset => rfl
  | idle hr hv => simp [reinitialises_of_executedAt_none (executedAt_of_idle hv), hr] at hi
  | refuse hr _ hx => simp [reinitialises_of_executedAt_none hx, hr] at hi
  | commit hx hc => simp [reinitialises_of_executedAt hx, ne_reset_of_isComputing hc] at hi
  | wreg hx | wflg hx => simp [reinitialises_of_executedAt hx] at hi

/-- WFLG writes the flags its mask selects (R79). -/
theorem EdgeAction.flags_of_wflg {fm f : FlagField} (hw : executedAt p = some (.wflg fm f)) (s : State) :
    (act s).flags = mergeFlags fm f s.flags := by
  cases hact with
  | wflg hx => cases hx.symm.trans hw; rfl
  | rst hr => simp [executedAt_of_rst hr] at hw
  | idle _ hv => simp [executedAt_of_idle hv] at hw
  | refuse _ _ hx => simp [hx] at hw
  | commit hx hc => cases hx.symm.trans hw; cases hc
  | reset hx | wreg hx => cases hx.symm.trans hw

/-- Every edge either keeps the flags or is one of those that write them (R18). -/
theorem EdgeAction.flags_kept_or_written (s : State) :
    (act s).flags = s.flags ∨ countsTurn p = true ∨ reinitialises p = true ∨
      ∃ fm f, executedAt p = some (.wflg fm f) := by
  cases hact with
  | idle | refuse | wreg => exact .inl rfl
  | commit hx hc => exact .inr (.inl (by rw [countsTurn_of_executedAt hx, hc]))
  | rst hr => exact .inr (.inr (.inl (by simp [reinitialises, hr])))
  | reset hx => exact .inr (.inr (.inl (reinitialises_of_executedAt hx)))
  | wflg hx => exact .inr (.inr (.inr ⟨_, _, hx⟩))

/-! ### The turn counter after an edge (R21) -/

/-- The turn counter after any edge (R21, R22). -/
theorem EdgeAction.turn_eq (s : State) :
    (act s).turn = if reinitialises p then 0 else if countsTurn p then s.turn + 1 else s.turn := by
  cases hact with
  | rst hr => simp [reinitialises, hr]
  | idle hr hv =>
    have hx := executedAt_of_idle hv
    simp [reinitialises_of_executedAt_none hx, countsTurn_of_executedAt_none hx, hr]
  | refuse hr _ hx => simp [reinitialises_of_executedAt_none hx, countsTurn_of_executedAt_none hx, hr]
  | commit hx hc =>
    simp [reinitialises_of_executedAt hx, countsTurn_of_executedAt hx, ne_reset_of_isComputing hc, hc]
  | reset hx => simp [reinitialises_of_executedAt hx]
  | wreg hx | wflg hx => simp [reinitialises_of_executedAt hx, countsTurn_of_executedAt hx, isComputing]

/-- No edge reads the counter but to write it: from another counter value it leaves the same state but for the counter (R21). -/
theorem EdgeAction.withTurn (s : State) (c : Turn) :
    { act { s with turn := c } with turn := (act s).turn } = act s := by
  cases hact <;> rfl

end ActionOfAnEdge

/-- The host's pins move on whatever the counter. -/
theorem State.advancePins_withTurn (t : State) (c : Turn) :
    ({ t with turn := c } : State).advancePins = { t.advancePins with turn := c } := by
  obtain ⟨_, _, _, _, _, _, _, _ | _⟩ := t <;> rfl

/-! ### The obligations -/

/-- Settles O37: the flags after an edge, kind of edge by kind of edge, from the action the edge has for all flags. -/
theorem flagsWrittenOnlyByTheirCommands : Obligations.FlagsWrittenOnlyByTheirCommands := by
  intro s
  obtain ⟨act, hact, hstep⟩ := step_edgeAction s
  refine ⟨_, hstep s rfl rfl, fun hc f => ?_, fun hi => ?_, fun fm f hw => ?_, fun hne => ?_⟩
  · rw [← hact.setFlags_of_countsTurn hc s f]
    exact hstep (s.setFlags f) rfl rfl
  · simp [hact.flags_of_reinitialises hi, resetFlags]
  · simp [hact.flags_of_wflg hw, mergeFlags]
  · rw [State.advancePins_flags] at hne
    exact (hact.flags_kept_or_written s).resolve_left hne

/-- Settles O38: the counter after an edge, and that the edge has one action for all counter values. -/
theorem turnCounterLaw : Obligations.TurnCounterLaw := by
  intro s
  obtain ⟨act, hact, hstep⟩ := step_edgeAction s
  have hturn := hact.turn_eq s
  refine ⟨_, hstep s rfl rfl, fun hi => ?_, fun hi hc => ?_, fun hi hc => ?_, rfl, fun c => ?_⟩
  · simp [hturn, hi]
  · simp [hturn, hi, hc, BitVec.toNat_add]
  · simp [hturn, hi, hc]
  · refine ⟨_, hstep { s with turn := c } rfl rfl, ?_⟩
    rw [State.advancePins_turn, ← State.advancePins_withTurn, hact.withTurn]

end Sys2Proof.Machine

/-! ## The command word by its fields (R43 to R46) -/

namespace Sys2Proof.Machine

/-! ### The rows' patterns -/

/-- Settles O4. Words are equal field by field, and a row's mask is all ones on the opcode and on each field the row does not
use, zero on the others; the mask of WFLG cuts its immediate at bit 4. -/
theorem rowPatternsAreTheFieldTable : Obligations.RowPatternsAreTheFieldTable := by
  intro w
  refine ⟨?add, ?sub, ?mul, ?mov, ?rand, ?reset, ?wreg, ?wflg⟩
  case wflg =>
    simp [eq_iff_fields, rowMask_eq_packFields, rowMatch_eq_packFields, and_high28_eq_zero, extract_imm_high]
  all_goals simp [eq_iff_fields, rowMask_eq_packFields, rowMatch_eq_packFields]

/-- A word of an allocated opcode fits its row's pattern exactly when every field the row does not use is zero (R44). -/
theorem fits_iff_not_unusedFieldSet {w : Command} {o : Opcode} (ho : opcodeOf (fieldOp w) = some o) :
    w &&& rowMask o = rowMatch o ↔ ¬ UnusedFieldSet w := by
  have hop := (opcodeOf_eq_some _ _).1 ho
  cases o <;> simp only [rowMatch_eq_packFields, fieldOp_packFields] at hop <;>
    simp [unusedFieldSet, hop, rowPatternsAreTheFieldTable w]

/-- The command of an allocated opcode is well formed exactly when no register field it uses is above 7 (R45). -/
theorem wf_commandOf_iff_not_registerFieldHigh {w : Command} {o : Opcode} (ho : opcodeOf (fieldOp w) = some o) :
    (commandOf o w).wf = true ↔ ¬ RegisterFieldHigh w := by
  have hop := (opcodeOf_eq_some _ _).1 ho
  cases o <;> simp only [rowMatch_eq_packFields, fieldOp_packFields] at hop <;>
    simp [registerFieldHigh, commandOf, Instr.wf, regFieldOk, hop]

/-! ### The decoder's answer -/

/-- R48 with the tests of R44 and R45 read from the fields. -/
theorem decode_of_opcodeOf {w : Command} {o : Opcode} (ho : opcodeOf (fieldOp w) = some o) :
    decode w = if UnusedFieldSet w then .error .mustBeZero
      else if RegisterFieldHigh w then .error .registerRange else .ok (commandOf o w) := by
  have hfits := fits_iff_not_unusedFieldSet ho
  have hwf := wf_commandOf_iff_not_registerFieldHigh ho
  obtain ⟨hnone, -⟩ | ⟨o', ho', hcase⟩ := decode_cases w
  · simp [ho] at hnone
  · cases ho.symm.trans ho'
    obtain ⟨hmask, hd⟩ | ⟨hmask, hbad, hd⟩ | ⟨hmask, hgood, hd⟩ := hcase
    · rw [hd, if_pos (not_not.1 (mt hfits.2 hmask))]
    · have hreg : ¬ ¬ RegisterFieldHigh w := by rw [← hwf, hbad]; decide
      rw [hd, if_neg (hfits.1 hmask), if_pos (not_not.1 hreg)]
    · rw [hd, if_neg (hfits.1 hmask), if_neg (hwf.1 hgood)]

theorem decode_of_opcodeUnallocated {w : Command} (h : OpcodeUnallocated w) : decode w = .error .unrecognized := by
  simp [decode, (opcodeOf_eq_none _).2 h]

/-- Only an allocated opcode has unused fields (R44). -/
theorem opcodeOf_of_unusedFieldSet {w : Command} (h : UnusedFieldSet w) : ∃ o, opcodeOf (fieldOp w) = some o := by
  unfold UnusedFieldSet unusedFieldSet at h
  unfold opcodeOf
  split at h <;> simp_all

/-- Only an allocated opcode uses register fields (R45). -/
theorem opcodeOf_of_registerFieldHigh {w : Command} (h : RegisterFieldHigh w) :
    ∃ o, opcodeOf (fieldOp w) = some o := by
  unfold RegisterFieldHigh registerFieldHigh at h
  unfold opcodeOf
  split at h <;> simp_all

theorem decode_of_unusedFieldSet {w : Command} (h : UnusedFieldSet w) : decode w = .error .mustBeZero := by
  obtain ⟨o, ho⟩ := opcodeOf_of_unusedFieldSet h
  rw [decode_of_opcodeOf ho, if_pos h]

theorem decode_of_registerFieldHigh {w : Command} (hu : ¬ UnusedFieldSet w) (h : RegisterFieldHigh w) :
    decode w = .error .registerRange := by
  obtain ⟨o, ho⟩ := opcodeOf_of_registerFieldHigh h
  rw [decode_of_opcodeOf ho, if_neg hu, if_pos h]

/-! ### The edge that accepts a rejected word -/

/-- An accepted word that names no command is answered by its error's status and keeps the bank (R83). -/
theorem bankKept_responds_of_decode_error {s t : State} {e : DecodeError} (hr : s.pins.rst = false)
    (hv : s.pins.cmdValid = true) (hstep : step s = .next t) (hd : decode s.pins.cmdWord = .error e) :
    BankKept s t ∧ Responds t (statusOf e) none := by
  cases hstep.symm.trans (step_of_edgeEffect (edgeEffect_of_error hr hv hd))
  simp [BankKept, Responds]

/-- Settles O9: each of the three properties of the word decides the decoder's error, and the error the edge. -/
theorem rejectedWordReportsItsStatus : Obligations.RejectedWordReportsItsStatus := by
  intro s hr hv
  obtain ⟨act, -, hact⟩ := step_edgeAction s
  have hstep := hact s rfl rfl
  refine ⟨_, hstep, fun hop => ?unallocated, fun hu => ?unusedField, fun hreg => ?registerField⟩
  case unallocated => exact bankKept_responds_of_decode_error hr hv hstep (decode_of_opcodeUnallocated hop)
  case unusedField => exact bankKept_responds_of_decode_error hr hv hstep (decode_of_unusedFieldSet hu)
  case registerField =>
    by_cases hu : UnusedFieldSet s.pins.cmdWord
    · exact bankKept_responds_of_decode_error hr hv hstep (decode_of_unusedFieldSet hu)
    · exact bankKept_responds_of_decode_error hr hv hstep (decode_of_registerFieldHigh hu hreg)

end Sys2Proof.Machine

/-! ## The arithmetic commands (R59 to R71) -/

namespace Sys2Proof.Machine

/-! ### The words of one opcode -/

/-- The words of an allocated opcode are decoded by their fields (R43 to R45). -/
theorem decodesBy_commandOf {op : BitVec 4} {o : Opcode} (ho : opcodeOf op = some o) :
    DecodesBy op (commandOf o) := by
  rintro w rfl
  refine ⟨decode_of_unusedFieldSet, decode_of_registerFieldHigh, fun hu hr => ?_⟩
  rw [decode_of_opcodeOf ho, if_neg hu, if_neg hr]

/-! ### What each command does -/

theorem exec_add_of_lt {rd : RegField} (h : rd.toNat < 8) (imm : Word) (s : State) :
    exec (.add rd imm) s = .next (s.commit ⟨rd.toNat, h⟩ (s.regs[rd.toNat] + imm)
      (addFlags s.regs[rd.toNat] imm (s.regs[rd.toNat] + imm))) :=
  withReg_of_lt h s _

theorem exec_add_of_ge {rd : RegField} (h : 8 ≤ rd.toNat) (imm : Word) (s : State) :
    exec (.add rd imm) s = .next (s.refuse .usage) :=
  withReg_of_ge h s _

theorem exec_sub_of_lt {rd : RegField} (h : rd.toNat < 8) (imm : Word) (s : State) :
    exec (.sub rd imm) s = .next (s.commit ⟨rd.toNat, h⟩ (s.regs[rd.toNat] - imm)
      (subFlags s.regs[rd.toNat] imm (s.regs[rd.toNat] - imm))) :=
  withReg_of_lt h s _

theorem exec_sub_of_ge {rd : RegField} (h : 8 ≤ rd.toNat) (imm : Word) (s : State) :
    exec (.sub rd imm) s = .next (s.refuse .usage) :=
  withReg_of_ge h s _

theorem exec_mul_of_lt {rd rs : RegField} (h : rd.toNat < 8) (g : rs.toNat < 8) (s : State) :
    exec (.mul rd rs) s = .next (s.commit ⟨rd.toNat, h⟩ (s.regs[rd.toNat] * s.regs[rs.toNat])
      (mulFlags s.regs[rd.toNat] s.regs[rs.toNat] (s.regs[rd.toNat] * s.regs[rs.toNat]))) :=
  (withReg_of_lt h s _).trans (withReg_of_lt g s _)

/-- MUL looks at the destination field first, and is turned away in the same way for either field. -/
theorem exec_mul_of_ge {rd rs : RegField} (h : 8 ≤ rd.toNat ∨ 8 ≤ rs.toNat) (s : State) :
    exec (.mul rd rs) s = .next (s.refuse .usage) := by
  by_cases hd : rd.toNat < 8
  · exact (withReg_of_lt hd s _).trans (withReg_of_ge (h.resolve_left (Nat.not_le.2 hd)) s _)
  · exact withReg_of_ge (Nat.not_lt.1 hd) s _

/-! ### Results and flags as arithmetic -/

/-- The sum of R61. -/
theorem ofNat_add_mod (a b : Word) : BitVec.ofNat 32 ((a.toNat + b.toNat) % 2 ^ 32) = a + b :=
  BitVec.eq_of_toNat_eq (by simp)

/-- The difference of R64. -/
theorem ofInt_sub_mod (a b : Word) : BitVec.ofInt 32 (((a.toNat : Int) - b.toNat) % 2 ^ 32) = a - b := by
  apply BitVec.eq_of_toNat_eq
  simp only [BitVec.toNat_ofInt, BitVec.toNat_sub]
  omega

/-- The low product of R67. -/
theorem ofNat_mul_mod (a b : Word) : BitVec.ofNat 32 (a.toNat * b.toNat % 2 ^ 32) = a * b :=
  BitVec.eq_of_toNat_eq (by simp)

/-- MUL's overflow with the signed reading of R10 as two's complement (R69). -/
theorem mulOverflow_eq (a b : Word) :
    mulOverflow a b = !decide (-2 ^ 31 ≤ a.toInt * b.toInt ∧ a.toInt * b.toInt ≤ 2 ^ 31 - 1) := by
  simp only [mulOverflow, sint_eq_toInt]

/-- R60: N and Z of a commit with the flags of its result are read from the written register. -/
theorem CommitsTo.negative_zero {s t : State} {rd : RegIx} {res : Word} {c v : Bool}
    (h : CommitsTo s t rd res (res.getLsbD 31) (decide (res = 0)) c v) :
    t.flags.n = t.regs[rd].getLsbD 31 ∧ (t.flags.z = true ↔ t.regs[rd] = 0) := by
  obtain ⟨hres, -, hn, hz, -⟩ := h
  rw [hres, hn, hz, decide_eq_true_iff]
  exact ⟨rfl, .rfl⟩

/-! ### The obligations -/

/-- Settles O16: the commit of ADD (R59), with its sum read as arithmetic modulo 2^32. -/
theorem addCommand : Obligations.AddCommand := by
  refine ⟨decodesBy_commandOf (o := .add) rfl, fun s rd imm => ⟨fun h => ?commits, fun h => ?turnedAway⟩⟩
  case commits =>
    refine ⟨_, exec_add_of_lt h imm s, ?_⟩
    simp only [ofNat_add_mod]
    exact commit_commitsTo s _ _ _
  case turnedAway => exact ⟨_, exec_add_of_ge h imm s, refuse_turnedAway s _⟩

/-- Settles O17: the commit of SUB (R59), with its difference read as arithmetic modulo 2^32. -/
theorem subCommand : Obligations.SubCommand := by
  refine ⟨decodesBy_commandOf (o := .sub) rfl, fun s rd imm => ⟨fun h => ?commits, fun h => ?turnedAway⟩⟩
  case commits =>
    refine ⟨_, exec_sub_of_lt h imm s, ?_⟩
    simp only [ofInt_sub_mod]
    exact commit_commitsTo s _ _ _
  case turnedAway => exact ⟨_, exec_sub_of_ge h imm s, refuse_turnedAway s _⟩

/-- Settles O18: the commit of MUL (R59), with its product read as arithmetic modulo 2^32 and its overflow as the range of
the signed product. -/
theorem mulCommand : Obligations.MulCommand := by
  refine ⟨decodesBy_commandOf (o := .mul) rfl, fun s rd rs => ⟨fun h g => ?commits, fun h => ?turnedAway⟩⟩
  case commits =>
    refine ⟨_, exec_mul_of_lt h g s, ?_⟩
    simp only [ofNat_mul_mod, ← mulOverflow_eq]
    exact commit_commitsTo s _ _ _
  case turnedAway => exact ⟨_, exec_mul_of_ge h s, refuse_turnedAway s _⟩

/-- Settles O27: each of the three commands commits with N and Z of its result. -/
theorem negativeAndZeroReadTheResultOnly : Obligations.NegativeAndZeroReadTheResultOnly := by
  intro s rd rs imm h g
  simp only [List.forall_mem_cons]
  refine ⟨?add, ?sub, ?mul, nofun⟩
  case add =>
    obtain ⟨t, ht, hc⟩ := (addCommand.2 s rd imm).1 h
    exact ⟨t, ht, hc.negative_zero⟩
  case sub =>
    obtain ⟨t, ht, hc⟩ := (subCommand.2 s rd imm).1 h
    exact ⟨t, ht, hc.negative_zero⟩
  case mul =>
    obtain ⟨t, ht, hc⟩ := (mulCommand.2 s rd rs).1 h g
    exact ⟨t, ht, hc.negative_zero⟩

end Sys2Proof.Machine

/-! ## The move path (R73 to R76) -/

namespace Sys2Proof.Machine

/-! ### What each command does -/

theorem exec_mov_of_lt {rd : RegField} (h : rd.toNat < 8) (imm : Word) (s : State) :
    exec (.mov rd imm) s = .next (s.commit ⟨rd.toNat, h⟩ imm (moveFlags imm)) :=
  withReg_of_lt h s _

theorem exec_mov_of_ge {rd : RegField} (h : 8 ≤ rd.toNat) (imm : Word) (s : State) :
    exec (.mov rd imm) s = .next (s.refuse .usage) :=
  withReg_of_ge h s _

/-- RAND with a draw in its range moves the draw (R74). -/
theorem exec_rand_of_drawInRange {rd : RegField} (h : rd.toNat < 8) {a b : Word} {s : State}
    (hin : drawInRange a b s.pins.rngValue = true) :
    exec (.rand rd a b) s = .next (s.commit ⟨rd.toNat, h⟩ s.pins.rngValue (moveFlags s.pins.rngValue)) :=
  (withReg_of_lt h s _).trans (if_pos hin)

/-- RAND with a draw outside its range is turned away (R76). -/
theorem exec_rand_of_not_drawInRange {rd : RegField} (h : rd.toNat < 8) {a b : Word} {s : State}
    (hout : ¬ drawInRange a b s.pins.rngValue = true) :
    exec (.rand rd a b) s = .next (s.refuse .rngRange) :=
  (withReg_of_lt h s _).trans (if_neg hout)

theorem exec_rand_of_ge {rd : RegField} (h : 8 ≤ rd.toNat) (a b : Word) (s : State) :
    exec (.rand rd a b) s = .next (s.refuse .usage) :=
  withReg_of_ge h s _

/-- A draw is outside the range exactly when it lies below the lower or above the higher bound (R76). -/
theorem not_drawInRange_iff (a b d : Word) :
    ¬ drawInRange a b d = true ↔ d.toNat < min a.toNat b.toNat ∨ max a.toNat b.toNat < d.toNat := by
  rw [drawInRange_iff, not_and_or, not_le, not_le]

/-! ### The range ports (R28, R74) -/

theorem hasRandOpcode_of_fieldOp {w : Command} (h : fieldOp w = 0x5) : hasRandOpcode w = true := by
  rw [hasRandOpcode, h]
  rfl

theorem rngLoPort_of_fieldOp {w : Command} (h : fieldOp w = 0x5) :
    rngLoPort w = rangeLo (fieldImm w) (fieldImm2 w) :=
  if_pos (hasRandOpcode_of_fieldOp h)

theorem rngHiPort_of_fieldOp {w : Command} (h : fieldOp w = 0x5) :
    rngHiPort w = rangeHi (fieldImm w) (fieldImm2 w) :=
  if_pos (hasRandOpcode_of_fieldOp h)

/-- While a word of RAND's opcode is presented, the range ports show the lower and the higher of its two bounds. -/
theorem outputs_range_of_fieldOp {s : State} (h : fieldOp s.pins.cmdWord = 0x5) :
    (outputs s).rngLo.toNat = min (fieldImm s.pins.cmdWord).toNat (fieldImm2 s.pins.cmdWord).toNat ∧
      (outputs s).rngHi.toNat = max (fieldImm s.pins.cmdWord).toNat (fieldImm2 s.pins.cmdWord).toNat := by
  simp only [outputs, rngLoPort_of_fieldOp h, rngHiPort_of_fieldOp h, rangeLo_toNat, rangeHi_toNat, and_self]

/-! ### The obligations -/

/-- Settles O19: the commit of MOV (R59), whose flags are those of the moved value. -/
theorem movCommand : Obligations.MovCommand := by
  refine ⟨decodesBy_commandOf (o := .mov) rfl, fun s rd imm => ⟨fun h => ?commits, fun h => ?turnedAway⟩⟩
  case commits => exact ⟨_, exec_mov_of_lt h imm s, commit_commitsTo s _ _ _⟩
  case turnedAway => exact ⟨_, exec_mov_of_ge h imm s, refuse_turnedAway s _⟩

/-- Settles O20: the range decides between MOV's commit of the draw and RNG_RANGE, so in each case one of the two clauses about
the draw applies and the other's hypothesis fails. -/
theorem randCommand : Obligations.RandCommand := by
  refine ⟨decodesBy_commandOf (o := .rand) rfl, fun s hop => outputs_range_of_fieldOp hop,
    fun s rd a b => ⟨fun h => ?named, fun h => ?turnedAway⟩⟩
  case named =>
    simp only [← drawInRange_iff, ← not_drawInRange_iff]
    by_cases hin : drawInRange a b s.pins.rngValue = true
    · exact ⟨_, exec_rand_of_drawInRange h hin, fun _ => commit_commitsTo s _ _ _, fun hout => absurd hin hout⟩
    · exact ⟨_, exec_rand_of_not_drawInRange h hin, fun hin' => absurd hin' hin, fun _ => refuse_turnedAway s _⟩
  case turnedAway => exact ⟨_, exec_rand_of_ge h a b s, refuse_turnedAway s _⟩

end Sys2Proof.Machine

/-! ## The bank control commands and the snapshot port (R77 to R80) -/

namespace Sys2Proof.Machine

/-! ### The words of RESET and WFLG, which use no register field -/

/-- A word is its opcode above `w[75:0]` (R40). -/
theorem fieldOp_append_low (w : Command) : fieldOp w ++ w.extractLsb' 0 76 = w :=
  BitVec.extractLsb'_append_extractLsb' (w := 4) (len := 76)

/-- Under RESET's opcode, `w[75:0]` is made of the five fields RESET does not use (R77): the row's mask covers the whole word. -/
theorem low_eq_zero_iff_not_unusedFieldSet {w : Command} (hop : fieldOp w = 0x6) :
    w.extractLsb' 0 76 = 0 ↔ ¬ UnusedFieldSet w := by
  have ho : opcodeOf (fieldOp w) = some .reset := by rw [hop]; rfl
  have hmask : rowMask .reset = BitVec.allOnes 80 := by decide
  rw [← fits_iff_not_unusedFieldSet ho, hmask, BitVec.and_allOnes]
  constructor
  · intro hlow
    rw [← fieldOp_append_low w, hop, hlow]
    decide
  · intro hw
    rw [hw]
    decide

/-- A word of an allocated opcode whose command is well formed whatever the fields hold is that command unless an unused field
is set (R44, R45). -/
theorem decode_of_wf_commandOf {w : Command} {o : Opcode} (ho : opcodeOf (fieldOp w) = some o)
    (hwf : (commandOf o w).wf = true) (hu : ¬ UnusedFieldSet w) : decode w = .ok (commandOf o w) := by
  rw [decode_of_opcodeOf ho, if_neg hu, if_neg ((wf_commandOf_iff_not_registerFieldHigh ho).1 hwf)]

/-! ### What each command does -/

theorem exec_reset (s : State) : exec .reset s = .next (s.resetBank.respond .ok none) := rfl

theorem exec_wreg_of_lt {rd : RegField} (h : rd.toNat < 8) (v : Word) (s : State) :
    exec (.wreg rd v) s = .next ((s.writeReg ⟨rd.toNat, h⟩ v).respond .ok none) :=
  withReg_of_lt h s _

theorem exec_wreg_of_ge {rd : RegField} (h : 8 ≤ rd.toNat) (v : Word) (s : State) :
    exec (.wreg rd v) s = .next (s.refuse .usage) :=
  withReg_of_ge h s _

theorem exec_wflg (fm f : FlagField) (s : State) :
    exec (.wflg fm f) s = .next ((s.setFlags (mergeFlags fm f s.flags)).respond .ok none) := rfl

theorem respond_responds (s : State) (st : Status) (z : Option RegIx) : Responds (s.respond st z) st z :=
  ⟨rfl, rfl, rfl⟩

/-- A bank put to its reset values is the reset bank of R30, whatever the response. -/
theorem resetBank_respond_bankIsReset (s : State) (st : Status) (z : Option RegIx) :
    BankIsReset (s.resetBank.respond st z) :=
  ⟨resetRegs_getElem, rfl, rfl, rfl, rfl, rfl⟩

/-! ### The packed flags as a number (R20) -/

theorem packFlags_toNat (f : Flags) :
    (packFlags f).toNat = 8 * f.n.toNat + 4 * f.z.toNat + 2 * f.c.toNat + f.v.toNat := by
  obtain ⟨n, z, c, v⟩ := f
  revert n z c v
  decide

/-! ### The obligations -/

/-- Settles O21: `w[75:0]` is the whole of the fields RESET does not use, and the bank is put to its reset values. -/
theorem resetCommand : Obligations.ResetCommand := by
  refine ⟨fun w hop => ⟨fun hset => ?mustBeZero, fun hzero => ?decodes⟩, fun s => ?resets⟩
  case mustBeZero =>
    exact decode_of_unusedFieldSet (not_not.1 (mt (low_eq_zero_iff_not_unusedFieldSet hop).2 hset))
  case decodes =>
    have ho : opcodeOf (fieldOp w) = some .reset := by rw [hop]; rfl
    exact decode_of_wf_commandOf ho rfl ((low_eq_zero_iff_not_unusedFieldSet hop).1 hzero)
  case resets =>
    exact ⟨_, exec_reset s, resetBank_respond_bankIsReset s _ _, respond_responds _ _ _, rfl, rfl⟩

/-- Settles O22: one register is written and read back, the others are not reached by the write (R35). -/
theorem wregCommand : Obligations.WregCommand := by
  refine ⟨decodesBy_commandOf (o := .wreg) rfl, fun s rd v => ⟨fun h => ?writes, fun h => ?turnedAway⟩⟩
  case writes =>
    refine ⟨_, exec_wreg_of_lt h v s, ?written, fun i hi => ?others, rfl, rfl, respond_responds _ _ _, rfl, rfl⟩
    case written => exact (s.writeReg_getElem ⟨rd.toNat, h⟩ ⟨rd.toNat, h⟩ v).trans (if_pos rfl)
    case others =>
      exact (s.writeReg_getElem ⟨rd.toNat, h⟩ i v).trans (if_neg fun he => hi (congrArg Fin.val he.symm))
  case turnedAway => exact ⟨_, exec_wreg_of_ge h v s, refuse_turnedAway s _⟩

/-- Settles O23: WFLG's row has no register field to be checked, and the merge gives each flag by its own mask bit. -/
theorem wflgCommand : Obligations.WflgCommand := by
  refine ⟨fun w hop => ⟨decode_of_unusedFieldSet, fun hu => ?decodes⟩, fun s fm f => ?merges⟩
  case decodes =>
    have ho : opcodeOf (fieldOp w) = some .wflg := by rw [hop]; rfl
    exact decode_of_wf_commandOf ho rfl hu
  case merges =>
    exact ⟨_, exec_wflg fm f s, rfl, rfl, rfl, rfl, rfl, rfl, respond_responds _ _ _, rfl, rfl⟩

/-- Settles O47: the port shows the registers and the counter themselves, and the flags packed. -/
theorem snapshotPortShowsTheBank : Obligations.SnapshotPortShowsTheBank :=
  fun s => ⟨fun _ => rfl, packFlags_toNat s.flags, rfl⟩

end Sys2Proof.Machine

/-! ## The statuses (R82 to R84) -/

namespace Sys2Proof.Machine

/-! ### The response of an edge that accepts a word -/

section ResponseOfAnEdge

variable {p : Pins} {act : State → State} (hact : EdgeAction p act)
include hact

/-- Every accepted word is answered (R29, R101). -/
theorem EdgeAction.rspValid_of_accepts (hr : p.rst = false) (hv : p.cmdValid = true) (s : State) :
    (act s).rspValid = true := by
  cases hact with
  | refuse | commit | reset | wreg | wflg => rfl
  | rst hr' => simp [hr] at hr'
  | idle _ hv' => simp [hv] at hv'

/-- An executed command ends with OK (R82). -/
theorem EdgeAction.rspStatus_of_executedAt {i : Instr} (hx : executedAt p = some i) (s : State) :
    (act s).rspStatus = .ok := by
  cases hact with
  | commit | reset | wreg | wflg => rfl
  | rst hr => simp [executedAt_of_rst hr] at hx
  | idle _ hv => simp [executedAt_of_idle hv] at hx
  | refuse _ _ hx' => simp [hx'] at hx

/-- Of the commands an edge accepts, only one turned away ends with another status than OK (R83). -/
theorem EdgeAction.turnedAway_of_rspStatus_ne_ok (hr : p.rst = false) (hv : p.cmdValid = true) {s : State}
    (hst : (act s).rspStatus ≠ .ok) : TurnedAway s (act s) (act s).rspStatus := by
  cases hact with
  | refuse => exact refuse_turnedAway s _
  | rst hr' => simp [hr] at hr'
  | idle _ hv' => simp [hv] at hv'
  | commit | reset | wreg | wflg => exact absurd rfl hst

end ResponseOfAnEdge

/-! ### The status by its cause (R84) -/

section StatusByCause

variable {s t : State} (hr : s.pins.rst = false) (hv : s.pins.cmdValid = true)
include hr hv

/-- The status port after a word that names no command. -/
theorem outputs_rspStatus_of_decode_error {e : DecodeError} (hstep : step s = .next t)
    (hd : decode s.pins.cmdWord = .error e) : (outputs t).rspStatus = statusCode (statusOf e) := by
  obtain ⟨-, -, hst, -⟩ := bankKept_responds_of_decode_error hr hv hstep hd
  exact congrArg statusCode hst

/-- The status port after a RAND whose draw is outside its range (R76). -/
theorem outputs_rspStatus_of_not_drawInRange {rd : RegField} {a b : Word} (hstep : step s = .next t)
    (hd : decode s.pins.cmdWord = .ok (.rand rd a b)) (hout : ¬ drawInRange a b s.pins.rngValue = true) :
    (outputs t).rspStatus = 3 := by
  have hlt : rd.toNat < 8 := lt_of_regFieldOk (wellFormed_of_decode hd)
  have heffect := (edgeEffect_of_command hr hv hd).trans (exec_rand_of_not_drawInRange hlt hout)
  cases hstep.symm.trans (step_of_edgeEffect heffect)
  simp [outputs, statusCode]

/-- A word with no cause for another status executes a command: the decoder passes it, and a draw it may need is in range. -/
theorem executedAt_of_no_cause (hop : ¬ OpcodeUnallocated s.pins.cmdWord) (hu : ¬ UnusedFieldSet s.pins.cmdWord)
    (hreg : ¬ RegisterFieldHigh s.pins.cmdWord)
    (hdraw : (fieldOp s.pins.cmdWord).toNat = 0x5 →
      drawInRange (fieldImm s.pins.cmdWord) (fieldImm2 s.pins.cmdWord) s.pins.rngValue = true) :
    ∃ i, executedAt s.pins = some i := by
  obtain ⟨o, ho⟩ := Option.ne_none_iff_exists'.1 (mt (opcodeOf_eq_none _).1 hop)
  have hd := (decodesBy_commandOf ho _ rfl).2.2 hu hreg
  cases o with
  | rand =>
    have hin := hdraw (by rw [(opcodeOf_eq_some _ _).1 ho]; decide)
    exact ⟨_, (executedAt_of_decode_rand hr hv hd).trans (if_pos hin)⟩
  | _ => exact ⟨_, executedAt_of_decode hr hv hd nofun⟩

end StatusByCause

/-! ### The obligations -/

/-- Settles O10: the first three causes are the decoder's errors in its own order, the fourth is RAND's own test of the draw,
and a word without a cause executes. -/
theorem statusCodeIsTheFirstCauseInOrder : Obligations.StatusCodeIsTheFirstCauseInOrder := by
  intro s hr hv w d DrawOutside
  obtain ⟨act, hact, hstep⟩ := step_edgeAction s
  have hnext := hstep s rfl rfl
  refine ⟨_, hnext, ?valid, fun hop => ?unallocated, fun _ hu => ?unusedField, fun _ hu hreg => ?registerField,
    fun _ hu hreg hout => ?drawOutside, fun hop hu hreg hin => ?noCause⟩
  case valid => simp [outputs, hact.rspValid_of_accepts hr hv]
  case unallocated => exact outputs_rspStatus_of_decode_error hr hv hnext (decode_of_opcodeUnallocated hop)
  case unusedField => exact outputs_rspStatus_of_decode_error hr hv hnext (decode_of_unusedFieldSet hu)
  case registerField => exact outputs_rspStatus_of_decode_error hr hv hnext (decode_of_registerFieldHigh hu hreg)
  case drawOutside =>
    obtain ⟨hop, hout⟩ := hout
    have hrand : fieldOp w = 0x5 := BitVec.eq_of_toNat_eq hop
    have hd := (decodesBy_commandOf (o := .rand) rfl w hrand).2.2 hu hreg
    exact outputs_rspStatus_of_not_drawInRange hr hv hnext hd ((not_drawInRange_iff _ _ _).2 hout)
  case noCause =>
    obtain ⟨i, hx⟩ := executedAt_of_no_cause hr hv hop hu hreg
      fun hrand => not_not.1 fun hout => hin ⟨hrand, (not_drawInRange_iff _ _ _).1 hout⟩
    simp [outputs, hact.rspStatus_of_executedAt hx, statusCode]

/-- Settles O40: a status other than OK is that of a command turned away. -/
theorem nonOkCommandChangesNothing : Obligations.NonOkCommandChangesNothing := by
  intro s hr hv
  obtain ⟨act, hact, hstep⟩ := step_edgeAction s
  refine ⟨_, hstep s rfl rfl, fun hst => ?_⟩
  rw [State.advancePins_rspStatus] at hst
  obtain ⟨hbank, -, -, -, hzero⟩ := hact.turnedAway_of_rspStatus_ne_ok hr hv hst
  exact ⟨by simpa [BankKept] using hbank, by simpa using hzero⟩

end Sys2Proof.Machine

/-! ## The reset input (R98) -/

namespace Sys2Proof.Machine

/-- What an edge with the reset input does: the bank is reset and the response dropped, before the pins move on (R101). -/
theorem step_of_rst {s : State} (hr : s.pins.rst = true) :
    step s = .next s.resetBank.dropResponse.advancePins :=
  step_of_edgeEffect (edgeEffect_of_rst hr)

theorem outputs_cmdReady_of_rst {s : State} (hr : s.pins.rst = true) : (outputs s).cmdReady = false := by
  simp [outputs, hr]

/-- The move of the pins after an edge leaves the bank alone. -/
theorem bankKept_advancePins (s : State) : BankKept s s.advancePins := by
  simp [BankKept]

/-- Whether a bank is the reset bank is read from the bank alone. -/
theorem BankKept.bankIsReset {s t : State} (h : BankKept s t) (hs : BankIsReset s) : BankIsReset t := by
  obtain ⟨hregs, hflags, hturn⟩ := h
  simpa only [BankIsReset, hregs, hflags, hturn] using hs

/-- Settles O11: the edge resets the bank as RESET does, and the two differ in the response alone. -/
theorem resetInputReinitialisesBank : Obligations.ResetInputReinitialisesBank := by
  intro s hr
  have hkept : BankKept (s.resetBank.respond .ok none) s.resetBank.dropResponse.advancePins :=
    bankKept_advancePins s.resetBank.dropResponse
  have hreset := hkept.bankIsReset (resetBank_respond_bankIsReset s .ok none)
  exact ⟨outputs_cmdReady_of_rst hr, _, _, step_of_rst hr, exec_reset s, hreset, hkept,
    State.advancePins_rspValid _⟩

end Sys2Proof.Machine

/-! ## The encoder and the decoder are inverse (R40 to R48), as words and as bytes (R33) -/

namespace Sys2Proof

/-! ### Decoding an encoded command -/

/-- The word of a command misses no pattern, so that only a register field above 7 can turn it away (R45). -/
theorem decode_encode (i : Instr) :
    decode (encode i) = if i.wf then .ok i else .error .registerRange := by
  obtain ⟨hfits, hfields⟩ := Laws.encode_fills_its_row i
  have hop := opcodeOf_of_fits hfits
  obtain ⟨hnone, -⟩ | ⟨o, ho, hcase⟩ := decode_cases (encode i)
  · simp [hop] at hnone
  · cases hop.symm.trans ho
    rw [hfields] at hcase
    obtain ⟨hmiss, -⟩ | ⟨-, hbad, hd⟩ | ⟨-, hgood, hd⟩ := hcase
    · exact absurd hfits hmiss
    · simp [hd, hbad]
    · simp [hd, hgood]

/-! ### Encoding a decoded word -/

/-- When `imm[31:4]` is zero, the flag values of WFLG are the whole immediate (R43). -/
theorem setWidth_fieldFlags {w : Command} (h : w.extractLsb' 4 28 = 0) :
    (fieldFlags w).setWidth 32 = fieldImm w := by
  apply BitVec.eq_of_getLsbD_eq
  intro j hj
  by_cases hlow : j < 4
  · simp [fieldFlags, fieldImm, hlow, hj]
  · have hbit : (w.extractLsb' 4 28).getLsbD (j - 4) = false := by rw [h]; simp
    simp only [fieldFlags, fieldImm, BitVec.getLsbD_setWidth, BitVec.getLsbD_extractLsb'] at hbit ⊢
    grind

/-- A word with its row's pattern is the encoding of the command read from it: the fields that are not read are zero (R43). -/
theorem encode_commandOf {w : Command} {o : Opcode} (h : w &&& rowMask o = rowMatch o) :
    encode (commandOf o w) = w := by
  obtain ⟨hadd, hsub, hmul, hmov, hrand, hreset, hwreg, hwflg⟩ := Machine.rowPatternsAreTheFieldTable w
  rw [eq_iff_fields]
  cases o with
  | add => simp [encode, commandOf, hadd.1 h]
  | sub => simp [encode, commandOf, hsub.1 h]
  | mul => simp [encode, commandOf, hmul.1 h]
  | mov => simp [encode, commandOf, hmov.1 h]
  | rand => simp [encode, commandOf, hrand.1 h]
  | reset => simp [encode, commandOf, hreset.1 h]
  | wreg => simp [encode, commandOf, hwreg.1 h]
  | wflg =>
    obtain ⟨hop, hrd, hrs, himm2, hhigh⟩ := hwflg.1 h
    simp [encode, commandOf, hop, hrd, hrs, himm2, setWidth_fieldFlags hhigh]

/-- A word that decodes has its row's pattern, and its command is the one read from its fields. -/
theorem fits_of_decode {w : Command} {i : Instr} (hd : decode w = .ok i) :
    ∃ o, w &&& rowMask o = rowMatch o ∧ i = commandOf o w := by
  obtain ⟨-, h⟩ | ⟨o, -, ⟨-, h⟩ | ⟨-, -, h⟩ | ⟨hfits, -, h⟩⟩ := decode_cases w
  · simp [hd] at h
  · simp [hd] at h
  · simp [hd] at h
  · exact ⟨o, hfits, Except.ok.inj (hd.symm.trans h)⟩

/-! ### The ten bytes of a word -/

/-- The ten bytes, the last on the left, are the word again. -/
theorem append_bytes (w : Command) :
    w.extractLsb' 72 8 ++ w.extractLsb' 64 8 ++ w.extractLsb' 56 8 ++ w.extractLsb' 48 8 ++ w.extractLsb' 40 8 ++
      w.extractLsb' 32 8 ++ w.extractLsb' 24 8 ++ w.extractLsb' 16 8 ++ w.extractLsb' 8 8 ++ w.extractLsb' 0 8 = w := by
  simp only [BitVec.extractLsb'_append_extractLsb'_eq_extractLsb', BitVec.extractLsb'_eq_self]

theorem decodeBytes_bytesOfCommand {w : Command} {i : Instr} (hd : decode w = .ok i) (rest : List Byte) :
    decodeBytes (bytesOfCommand w ++ rest) = .ok (i, rest) := by
  rw [← append_bytes w] at hd
  simp [bytesOfCommand, List.range, List.range.loop, decodeBytes, hd]

theorem length_bytesOfCommand (w : Command) : (bytesOfCommand w).length = 10 := by
  simp [bytesOfCommand]

/-- Byte j is the word shifted right by 8j, modulo 256. -/
theorem bytesOfCommand_getElem? (w : Command) {j : Nat} (hj : j < 10) :
    (bytesOfCommand w)[j]? = some (BitVec.ofNat 8 (w.toNat / 2 ^ (8 * j))) := by
  simp [bytesOfCommand, hj, BitVec.extractLsb', Nat.shiftRight_eq_div_pow]

/-! ### The obligations -/

/-- Settles O1: the checks of the decoder pass on the word of a well-formed command. -/
theorem decodeOfEncodeIsInstr : Obligations.DecodeOfEncodeIsInstr := by
  intro i hwf
  rw [decode_encode, if_pos hwf]

/-- Settles O2: a word that decodes has its row's pattern, and a word with its row's pattern is an encoding. -/
theorem decodedWordReencodesToItself : Obligations.DecodedWordReencodesToItself := by
  intro w i hd
  obtain ⟨o, hfits, rfl⟩ := fits_of_decode hd
  exact ⟨Machine.wellFormed_of_decode hd, encode_commandOf hfits⟩

/-- Settles O3: of the decoder's checks only the one of the register fields can fail on an encoded command. -/
theorem illFormedInstrIsRegisterRangeError : Obligations.IllFormedInstrIsRegisterRangeError := by
  intro i hill
  rw [decode_encode, if_neg hill]

/-- Settles O5: the eight words of R49, decoded. -/
theorem specWordsDecodeToTheirCommands : Obligations.SpecWordsDecodeToTheirCommands :=
  ⟨rfl, rfl, rfl, rfl, rfl, rfl, rfl, rfl⟩

/-- Settles O6: the ten bytes are the word again, which then decodes. -/
theorem commandBytesRoundTrip : Obligations.CommandBytesRoundTrip :=
  ⟨fun w => ⟨length_bytesOfCommand w, fun _ hj => bytesOfCommand_getElem? w hj⟩,
    fun i rest hwf => decodeBytes_bytesOfCommand (decodeOfEncodeIsInstr i hwf) rest⟩

end Sys2Proof

/-! ## The step as a whole (R14, R16, R25, R101) -/

namespace Sys2Proof.Machine

/-! ### What an edge leaves of the host's inputs, and what it reads -/

section ActionOfAnEdge

variable {p : Pins} {act : State → State} (hact : EdgeAction p act)
include hact

/-- The AFU writes no input pin (R26). -/
theorem EdgeAction.hostKept (s : State) : HostKept s (act s) := by
  cases hact <;> exact ⟨rfl, rfl⟩

/-- An action reads nothing of the state but its bank (R14). -/
theorem EdgeAction.bankKept_of_bankKept {s s' : State} (hs : BankKept s s') : BankKept (act s) (act s') := by
  obtain ⟨hregs, hflags, hturn⟩ := hs
  cases hact <;> simp [BankKept, hregs, hflags, hturn]

/-- Whether there is a response does not depend on the state, nor does the response while it is shown (R14). -/
theorem EdgeAction.response_indep (s s' : State) :
    (act s').rspValid = (act s).rspValid ∧ ((act s).rspValid = true →
      (act s').rspStatus = (act s).rspStatus ∧ (act s').rspZeroed = (act s).rspZeroed) := by
  cases hact with
  | refuse | commit | reset | wreg | wflg => exact ⟨rfl, fun _ => ⟨rfl, rfl⟩⟩
  | rst | idle => exact ⟨rfl, nofun⟩

/-! ### What an edge writes -/

/-- A register is kept, reset, or written through the destination of the command executed (R16). -/
theorem EdgeAction.register_kept_or_written (s : State) (r : RegIx) :
    (act s).regs[r] = s.regs[r] ∨ reinitialises p = true ∨
      ∃ i f, executedAt p = some i ∧ destination i = some f ∧ f.toNat = r.val := by
  cases hact with
  | idle | refuse | wflg => exact .inl rfl
  | rst hr => exact .inr (.inl (by simp [reinitialises, hr]))
  | reset hx => exact .inr (.inl (reinitialises_of_executedAt hx))
  | @commit i f d res fl hx _ hf hd =>
    by_cases h : d = r
    · exact .inr (.inr ⟨_, _, hx, hf, h ▸ hd⟩)
    · exact .inl ((s.writeReg_getElem d r res).trans (if_neg h))
  | @wreg f d v hx hd =>
    by_cases h : d = r
    · exact .inr (.inr ⟨_, _, hx, rfl, h ▸ hd⟩)
    · exact .inl ((s.writeReg_getElem d r v).trans (if_neg h))

/-- At an edge that accepts a word the zero event is the destination of an executed computing command, if its result is 0
(R25). -/
theorem EdgeAction.rspZeroed_eq_some (hr : p.rst = false) (hv : p.cmdValid = true) (s : State) (r : RegIx) :
    (act s).rspZeroed = some r ↔ ∃ i f, executedAt p = some i ∧ isComputing i = true ∧ destination i = some f ∧
      f.toNat = r.val ∧ (act s).regs[r] = 0 := by
  cases hact with
  | rst hr' => simp [hr] at hr'
  | idle _ hv' => simp [hv] at hv'
  | refuse _ _ hx => simp [hx]
  | reset hx | wreg hx | wflg hx => simp [hx, isComputing]
  | @commit i f d res fl hx hc hf hd =>
    have hread : ((s.commit d res fl).regs)[r] = if d = r then res else s.regs[r] := s.writeReg_getElem d r res
    rw [State.commit_rspZeroed, zeroEvent_eq_some, hread]
    constructor
    · rintro ⟨rfl, hres⟩
      exact ⟨i, f, hx, hc, hf, hd, (if_pos rfl).trans hres⟩
    · rintro ⟨i', f', hx', -, hf', hr', hres⟩
      cases hx.symm.trans hx'
      cases hf.symm.trans hf'
      have hdr : d = r := Fin.ext (hd.symm.trans hr')
      exact ⟨hdr, by rwa [if_pos hdr] at hres⟩

/-- A computing command reports a zero event exactly when the Z it writes is 1 (R25, R60). -/
theorem EdgeAction.rspZeroed_isSome (hc : countsTurn p = true) (s : State) :
    (act s).rspZeroed.isSome = true ↔ (act s).flags.z = true := by
  cases hact with
  | commit hx _ _ _ _ hz => simp [hz, zeroFlag, zeroEvent]
  | rst hr => simp [countsTurn_of_executedAt_none (executedAt_of_rst hr)] at hc
  | idle _ hv => simp [countsTurn_of_executedAt_none (executedAt_of_idle hv)] at hc
  | refuse _ _ hx => simp [countsTurn_of_executedAt_none hx] at hc
  | reset hx | wreg hx | wflg hx => simp [countsTurn_of_executedAt hx, isComputing] at hc

/-- The response an edge leaves is safe, whatever was shown before. -/
theorem EdgeAction.responseInv (s : State) : ResponseInv (act s) := by
  cases hact with
  | rst | idle => exact nofun
  | refuse | reset | wreg | wflg => exact fun _ => ⟨fun _ => rfl, nofun⟩
  | @commit i f d res fl _ _ _ _ hn hz =>
    refine fun _ => ⟨fun h => absurd rfl h, fun r hr => ?_⟩
    obtain ⟨rfl, hres⟩ := zeroEvent_eq_some.1 hr
    have hzero : zeroFlag res = true := decide_eq_true hres
    exact ⟨rfl, (s.writeReg_getElem d d res).trans ((if_pos rfl).trans hres), hz.trans hzero,
      hn.trans (negFlag_of_zeroFlag res hzero)⟩

end ActionOfAnEdge

/-- The pins are no part of the response. -/
theorem responseInv_advancePins {s : State} (h : ResponseInv s) : ResponseInv s.advancePins := by
  simpa [ResponseInv] using h

/-- Whatever the coming pins were, moving them on is driving the later ones. -/
theorem State.advancePins_eq_driven (s : State) (p : Pins) :
    ({ s with pins := p } : State).advancePins = s.driven s.later := by
  obtain ⟨_, _, _, _, _, _, _, _ | _⟩ := s <;> rfl

/-! ### Commands that read no pin -/

/-- A command that goes on with a register in the same way for both pins answers in the same way for both. -/
theorem withReg_withPins {f : RegField} {s : State} {p : Pins} {k k' : RegIx → Result}
    (hk : ∀ d, ∃ t, k d = .next t ∧ k' d = .next { t with pins := p }) :
    ∃ t, withReg f s k = .next t ∧ withReg f { s with pins := p } k' = .next { t with pins := p } := by
  unfold withReg
  cases regIndex f with
  | none => exact ⟨_, rfl, rfl⟩
  | some d => exact hk d

/-- Every command but RAND has its meaning without the pins (R26). -/
theorem exec_withPins {i : Instr} (hi : ∀ rd a b, i ≠ .rand rd a b) (s : State) (p : Pins) :
    ∃ t, exec i s = .next t ∧ exec i { s with pins := p } = .next { t with pins := p } := by
  cases i with
  | rand rd a b => exact absurd rfl (hi rd a b)
  | add | sub | mov | wreg => exact withReg_withPins fun _ => ⟨_, rfl, rfl⟩
  | mul => exact withReg_withPins fun _ => withReg_withPins fun _ => ⟨_, rfl, rfl⟩
  | reset | wflg => exact ⟨_, rfl, rfl⟩

/-- A word without RAND's opcode is no RAND. -/
theorem ne_rand_of_fieldOp {w : Command} {i : Instr} (hop : (fieldOp w).toNat ≠ 0x5) (hd : decode w = .ok i)
    (rd : RegField) (a b : Word) : i ≠ .rand rd a b := by
  rintro rfl
  obtain ⟨-, rfl⟩ := decodedWordReencodesToItself _ _ hd
  simp [encode] at hop

/-- The effect of an edge without RAND's opcode is the same for every draw. -/
theorem edgeEffect_withDraw {s : State} (hop : (fieldOp s.pins.cmdWord).toNat ≠ 0x5) (d : Word) :
    ∃ t, edgeEffect s = .next t ∧ edgeEffect { s with pins := { s.pins with rngValue := d } } =
      .next { t with pins := { s.pins with rngValue := d } } := by
  cases hr : s.pins.rst with
  | true => exact ⟨_, edgeEffect_of_rst hr, edgeEffect_of_rst hr⟩
  | false =>
    cases hv : s.pins.cmdValid with
    | false => exact ⟨_, edgeEffect_of_idle hr hv, edgeEffect_of_idle hr hv⟩
    | true =>
      cases hd : decode s.pins.cmdWord with
      | error e => exact ⟨_, edgeEffect_of_error hr hv hd, edgeEffect_of_error hr hv hd⟩
      | ok i =>
        obtain ⟨t, ht, ht'⟩ := exec_withPins (ne_rand_of_fieldOp hop hd) s { s.pins with rngValue := d }
        exact ⟨t, (edgeEffect_of_command hr hv hd).trans ht,
          (edgeEffect_of_command (s := { s with pins := { s.pins with rngValue := d } }) hr hv hd).trans ht'⟩

/-! ### The obligations -/

/-- Settles O42: the response an edge leaves is safe by the edge's own kind; the pins that move on are no part of it. -/
theorem everyStepKeepsResponseInv : Obligations.EveryStepKeepsResponseInv := by
  intro s t _ hst
  obtain ⟨act, hact, hstep⟩ := step_edgeAction s
  cases hst.symm.trans (hstep s rfl rfl)
  exact responseInv_advancePins (hact.responseInv s)

/-- Settles O43: no response is shown at power-up (R30). -/
theorem responseInvAtReset : Obligations.ResponseInvAtReset :=
  fun hvalid => absurd hvalid Bool.false_ne_true

/-- Settles O8: every edge has an action (R101). -/
theorem stepAlwaysAnswersNext : Obligations.StepAlwaysAnswersNext := by
  intro s
  obtain ⟨act, -, hstep⟩ := step_edgeAction s
  exact ⟨_, hstep s rfl rfl⟩

/-- Settles O14: the two states have one action, which reads no more than the bank. -/
theorem stepDependsOnlyOnBankAndPins : Obligations.StepDependsOnlyOnBankAndPins := by
  intro s s' hs hpins
  obtain ⟨act, hact, hstep⟩ := step_edgeAction s
  obtain ⟨hvalid, hshown⟩ := hact.response_indep s s'
  refine ⟨_, _, hstep s rfl rfl, hstep s' hs.1 hpins, ?bank, ?valid, ?shown⟩
  case bank => simpa [BankKept] using hact.bankKept_of_bankKept hs
  case valid => simpa using hvalid
  case shown => simpa using hshown

/-- Settles O15: the two edges have one effect but for the pins, which then move on. -/
theorem drawIgnoredByOtherOpcodes : Obligations.DrawIgnoredByOtherOpcodes := by
  intro s d hop
  obtain ⟨t, ht, ht'⟩ := edgeEffect_withDraw hop d
  rw [step_of_edgeEffect ht, step_of_edgeEffect ht', t.advancePins_eq_driven, ← t.advancePins_eq_driven t.pins]

/-- Settles O36: a register that is not kept is reset or written by its command. -/
theorem registersWrittenOnlyByTheirCommands : Obligations.RegistersWrittenOnlyByTheirCommands := by
  intro s
  obtain ⟨act, hact, hstep⟩ := step_edgeAction s
  refine ⟨_, hstep s rfl rfl, fun r hne => ?_⟩
  rw [State.advancePins_regs] at hne
  exact (hact.register_kept_or_written s r).resolve_left hne

/-- Settles O39: the zero event of the edge's action, register by register, and its agreement with Z. -/
theorem zeroEventExactlyForAComputedZero : Obligations.ZeroEventExactlyForAComputedZero := by
  intro s hr hv
  obtain ⟨act, hact, hstep⟩ := step_edgeAction s
  refine ⟨_, hstep s rfl rfl, ?valid, fun r => ?event, fun hc => ?zero⟩
  case valid => rw [State.advancePins_rspValid, hact.rspValid_of_accepts hr hv]
  case event => simpa only [State.advancePins_rspZeroed, State.advancePins_regs] using hact.rspZeroed_eq_some hr hv s r
  case zero => simpa only [State.advancePins_rspZeroed, State.advancePins_flags] using hact.rspZeroed_isSome hc s

/-- Settles O7: the edge runs the command, and the host's pins, which the command has kept, move on. -/
theorem acceptedWordRunsItsCommand : Obligations.AcceptedWordRunsItsCommand := by
  intro s i hr hv hd
  obtain ⟨act, hact, hexec⟩ := exec_edgeAction hr hv hd
  have ht := hexec s rfl rfl
  obtain ⟨-, hlater⟩ := hact.hostKept s
  refine ⟨_, _, ht, step_of_edgeEffect ((edgeEffect_of_command hr hv hd).trans ht), ?_⟩
  simp [hlater]

/-- Settles O12: R101's last case. -/
theorem idleEdgeKeepsBank : Obligations.IdleEdgeKeepsBank := by
  intro s hr hv
  exact ⟨by simp [outputs, hr], _, step_of_edgeEffect (edgeEffect_of_idle hr hv),
    bankKept_advancePins s.dropResponse, State.advancePins_rspValid _⟩

/-- Settles O13: the reset state's own fields, and the two commands that bring them back. -/
theorem resetValuesOfTheBank : Obligations.ResetValuesOfTheBank := by
  refine ⟨⟨⟨resetRegs_getElem, rfl, rfl, rfl, rfl, rfl⟩, rfl⟩, fun s => ⟨?command, fun hr => ?input⟩⟩
  case command => exact ⟨_, exec_reset s, resetBank_respond_bankIsReset s _ _⟩
  case input =>
    obtain ⟨-, t, -, hstep, -, hreset, -, hvalid⟩ := resetInputReinitialisesBank s hr
    exact ⟨t, hstep, hreset, hvalid⟩

end Sys2Proof.Machine

/-! ## Runs (R19, R21, R36) -/

namespace Sys2Proof.Machine

/-! ### The edges still to come -/

/-- An edge with nothing presented neither counts a turn nor reinitialises. -/
theorem countsTurn_idle : countsTurn Pins.idle = false := rfl

theorem reinitialises_idle : reinitialises Pins.idle = false := rfl

/-- The edges to come after an edge are those that were later, then those of a silent host. -/
theorem edgesOf_advancePins (t : State) :
    edgesOf t.advancePins = if t.later = [] then [Pins.idle] else t.later := by
  obtain ⟨_, _, _, _, _, _, _, _ | _⟩ := t <;> rfl

/-- An edge that is later is still to come after the edge. -/
theorem mem_edgesOf_advancePins {t : State} {k : Nat} {p : Pins} (h : p ∈ t.later.take k) :
    p ∈ (edgesOf t.advancePins).take k := by
  rw [edgesOf_advancePins]
  split
  · rename_i hnil
    simp [hnil] at h
  · exact h

/-- After the edge, the edges to come are later ones or idle. -/
theorem mem_take_or_idle {t : State} {k : Nat} {p : Pins} (h : p ∈ (edgesOf t.advancePins).take k) :
    p ∈ t.later.take k ∨ p = Pins.idle := by
  rw [edgesOf_advancePins] at h
  split at h
  · exact .inr (List.mem_singleton.1 (List.mem_of_mem_take h))
  · exact .inl h

/-- The idle edges of a host that has run out count no turn. -/
theorem countP_edgesOf_advancePins (t : State) (k : Nat) :
    ((edgesOf t.advancePins).take k).countP countsTurn = (t.later.take k).countP countsTurn := by
  rw [edgesOf_advancePins]
  split
  · rename_i hnil
    cases k <;> simp [hnil, countsTurn_idle]
  · rfl

/-! ### One edge from states that differ in the flags or in the later edges -/

section ActionOfAnEdge

variable {p : Pins} {act : State → State} (hact : EdgeAction p act)
include hact

/-- From other flags an edge leaves the same state but for the flags (R19). -/
theorem EdgeAction.setFlags (s : State) (f : Flags) : ∃ f', act (s.setFlags f) = (act s).setFlags f' := by
  cases hact <;> exact ⟨_, rfl⟩

/-- A computing command and a reset leave the same flags whatever they were (R17, R18). -/
theorem EdgeAction.setFlags_of_written (hw : countsTurn p = true ∨ reinitialises p = true) (s : State) (f : Flags) :
    act (s.setFlags f) = act s := by
  obtain hc | hi := hw
  · exact hact.setFlags_of_countsTurn hc s f
  · obtain ⟨f', hf'⟩ := hact.setFlags s f
    have hflags : f' = (act s).flags := by
      rw [hact.flags_of_reinitialises hi s, ← hact.flags_of_reinitialises hi (s.setFlags f), hf', State.setFlags_flags]
    rw [hf', hflags]
    rfl

/-- An action neither reads nor writes the later edges. -/
theorem EdgeAction.withLater (s : State) (qs : List Pins) :
    act { s with later := qs } = { act s with later := qs } := by
  cases hact <;> rfl

end ActionOfAnEdge

/-- The pins move on whatever the flags. -/
theorem State.advancePins_setFlags (t : State) (f : Flags) :
    (t.setFlags f).advancePins = t.advancePins.setFlags f := by
  obtain ⟨_, _, _, _, _, _, _, _ | _⟩ := t <;> rfl

/-! ### Runs from states that differ in the flags -/

/-- Two runs that start with other flags end with other flags at most; with the same once an edge of them has written all
four (R19). -/
theorem run_setFlags (k : Nat) (s : State) (f : Flags) : ∃ t f',
    run k s = .next t ∧ run k (s.setFlags f) = .next (t.setFlags f') ∧
      ((∃ p ∈ (edgesOf s).take k, countsTurn p = true ∨ reinitialises p = true) → t.setFlags f' = t) := by
  induction k generalizing s f with
  | zero => exact ⟨s, f, rfl, rfl, by simp⟩
  | succ k ih =>
    obtain ⟨act, hact, hstep⟩ := step_edgeAction s
    obtain ⟨g, hg⟩ := hact.setFlags s f
    obtain ⟨t, f', hrun, hrun', hsame⟩ := ih (act s).advancePins g
    have hnext : step (s.setFlags f) = .next ((act s).advancePins.setFlags g) := by
      rw [hstep (s.setFlags f) rfl rfl, hg, State.advancePins_setFlags]
    refine ⟨t, f', (run_succ_of_step (hstep s rfl rfl) k).trans hrun, (run_succ_of_step hnext k).trans hrun', ?_⟩
    rintro ⟨p, hp, hw⟩
    obtain rfl | hp := List.mem_cons.1 hp
    · have hacts := hact.setFlags_of_written hw s f
      rw [← State.advancePins_setFlags, ← hg, hacts, hrun] at hrun'
      exact (Host.Outcome.next.inj hrun').symm
    · refine hsame ⟨p, mem_edgesOf_advancePins ?_, hw⟩
      obtain ⟨-, hlater⟩ := hact.hostKept s
      rwa [hlater]

/-! ### Runs that reset nothing -/

/-- A run without a reset adds to the counter the turns it counts (R21, R22). -/
theorem run_turn (k : Nat) (s : State) (h : ∀ p ∈ (edgesOf s).take k, reinitialises p = false) :
    ∃ t, run k s = .next t ∧ t.turn = s.turn + BitVec.ofNat 64 (((edgesOf s).take k).countP countsTurn) := by
  induction k generalizing s with
  | zero => exact ⟨s, rfl, by simp⟩
  | succ k ih =>
    obtain ⟨act, hact, hstep⟩ := step_edgeAction s
    obtain ⟨-, hlater⟩ := hact.hostKept s
    have htail : ∀ p ∈ (edgesOf (act s).advancePins).take k, reinitialises p = false := by
      intro p hp
      obtain hp | rfl := mem_take_or_idle hp
      · rw [hlater] at hp
        exact h p (List.mem_cons_of_mem _ hp)
      · exact reinitialises_idle
    obtain ⟨t, hrun, hturn⟩ := ih _ htail
    refine ⟨t, (run_succ_of_step (hstep s rfl rfl) k).trans hrun, ?_⟩
    have hhead : reinitialises s.pins = false := h s.pins List.mem_cons_self
    rw [hturn, countP_edgesOf_advancePins, hlater, State.advancePins_turn, hact.turn_eq s, hhead, edgesOf, List.take_succ_cons,
      List.countP_cons]
    cases countsTurn s.pins
    · simp
    · rw [if_neg Bool.false_ne_true, if_pos rfl, if_pos rfl, BitVec.ofNat_add]
      ac_rfl

/-! ### Runs over a list of edges -/

/-- The edges a host will drive replace those it would have driven. -/
theorem State.driven_driven (s : State) (ps qs : List Pins) : (s.driven ps).driven qs = s.driven qs := by
  cases ps <;> cases qs <;> rfl

/-- The first of a list of edges leaves one state whatever the edges after it (R36). -/
theorem step_driven_cons (s : State) (p : Pins) : ∃ t : State, ∀ qs, step (s.driven (p :: qs)) = .next (t.driven qs) := by
  obtain ⟨act, hact, hstep⟩ := step_edgeAction (s.driven [p])
  refine ⟨act (s.driven [p]), fun qs => ?_⟩
  rw [hstep (s.driven (p :: qs)) rfl rfl]
  exact congrArg (fun t => Host.Outcome.next t.advancePins) (hact.withLater (s.driven [p]) qs)

/-! ### The obligations -/

/-- Settles O41: the two runs, edge by edge. -/
theorem oldFlagsNeverInfluenceARun : Obligations.OldFlagsNeverInfluenceARun := by
  intro k s f
  obtain ⟨t, f', hrun, hrun', hsame⟩ := run_setFlags k s f
  exact ⟨t, t.setFlags f', hrun, hrun', rfl, hsame⟩

/-- Settles O44: the counter as a word is the old one and the turns counted, which is the wrap of R22. -/
theorem turnCountsExecutedComputingCommands : Obligations.TurnCountsExecutedComputingCommands := by
  intro k s h
  obtain ⟨t, hrun, hturn⟩ := run_turn k s h
  refine ⟨t, hrun, ?_⟩
  rw [hturn, BitVec.toNat_add, BitVec.toNat_ofNat, Nat.add_mod_mod]

/-- Settles O45, by induction on the first list of edges. -/
theorem commandsTakeEffectInOrder : Obligations.CommandsTakeEffectInOrder := by
  intro s ps qs
  induction ps generalizing s with
  | nil => exact ⟨s.driven [], rfl, by rw [State.driven_driven]; rfl⟩
  | cons p ps ih =>
    obtain ⟨t, hstep⟩ := step_driven_cons s p
    obtain ⟨u, hfirst, hboth⟩ := ih t
    exact ⟨u, (run_succ_of_step (hstep ps) _).trans hfirst, (run_succ_of_step (hstep (ps ++ qs)) _).trans hboth⟩

end Sys2Proof.Machine

/-! ## Save and load (R55, R57, R81) -/

namespace Sys2Proof.Machine

/-! ### The parts of a bank that a load restores -/

/-- A register, or one of the four flags: what a snapshot saves and a load writes (R57, R81). -/
inductive SavedPart where
  | reg (r : RegIx)
  | flag (f : FlagName)

/-- The part has the same value in both states. -/
def SavedPart.Agrees (S t : State) : SavedPart → Prop
  | .reg r => t.regs[r] = S.regs[r]
  | .flag f => (packFlags t.flags).getLsbD (flagBit f) = (packFlags S.flags).getLsbD (flagBit f)

/-- The parts a WREG and a WFLG write (R78, R79). -/
def writesPart : Instr → SavedPart → Prop
  | .wreg rd _, .reg r => rd.toNat = r.val
  | .wflg fm _, .flag f => fm.getLsbD (flagBit f) = true
  | _, _ => False

/-- The commands that write values of the snapshot of `S` and no others. -/
inductive LoadsFrom (S : State) : Instr → Prop
  | wreg (d : RegIx) : LoadsFrom S (.wreg (BitVec.ofNat 4 d.val) S.regs[d])
  | wflg {fm f : FlagField}
      (h : ∀ b, fm.getLsbD (flagBit b) = true → f.getLsbD (flagBit b) = (packFlags S.flags).getLsbD (flagBit b)) :
      LoadsFrom S (.wflg fm f)

/-- Two states that agree in every saved part have the same registers and flags. -/
theorem regs_flags_eq_of_agrees {S t : State} (h : ∀ part, SavedPart.Agrees S t part) :
    t.regs = S.regs ∧ t.flags = S.flags := by
  constructor
  · exact Vector.ext fun r hr => h (.reg ⟨r, hr⟩)
  · have hn := h (.flag .n)
    have hz := h (.flag .z)
    have hc := h (.flag .c)
    have hv := h (.flag .v)
    simp only [SavedPart.Agrees, flagBit, packFlags_bits] at hn hz hc hv
    cases hS : S.flags
    cases ht : t.flags
    simp_all

/-- Each bit of the packed flags after WFLG, by its own mask bit (R20, R79). -/
theorem packFlags_mergeFlags_getLsbD (fm f : FlagField) (old : Flags) (b : FlagName) :
    (packFlags (mergeFlags fm f old)).getLsbD (flagBit b) =
      if fm.getLsbD (flagBit b) then f.getLsbD (flagBit b) else (packFlags old).getLsbD (flagBit b) := by
  cases b <;> simp only [flagBit, packFlags_bits, mergeFlags]

/-! ### One command of a load -/

theorem toNat_ofNat_regIx (d : RegIx) : (BitVec.ofNat 4 d.val).toNat = d.val := by
  have := d.isLt
  simp only [BitVec.toNat_ofNat]
  omega

theorem LoadsFrom.ne_rand {S : State} {i : Instr} (h : LoadsFrom S i) (rd : RegField) (a b : Word) :
    i ≠ .rand rd a b := by
  rintro rfl
  cases h

/-- A command of a load has a word (R45). -/
theorem LoadsFrom.wellFormed {S : State} {i : Instr} (h : LoadsFrom S i) : WellFormed i := by
  cases h with
  | wreg d => exact decide_eq_true (by rw [toNat_ofNat_regIx]; exact d.isLt)
  | wflg => rfl

theorem exec_wreg_regIx (d : RegIx) (v : Word) (s : State) :
    exec (.wreg (BitVec.ofNat 4 d.val) v) s = .next ((s.writeReg d v).respond .ok none) := by
  have hlt : (BitVec.ofNat 4 d.val).toNat < 8 := by rw [toNat_ofNat_regIx]; exact d.isLt
  have hd : (⟨(BitVec.ofNat 4 d.val).toNat, hlt⟩ : RegIx) = d := Fin.ext (toNat_ofNat_regIx d)
  rw [exec_wreg_of_lt hlt, hd]

/-- A WREG of a register of the snapshot keeps the parts that agree with it, and brings that register to agree. -/
theorem agrees_writeReg {S s : State} {d : RegIx} {part : SavedPart}
    (h : part.Agrees S s ∨ writesPart (.wreg (BitVec.ofNat 4 d.val) S.regs[d]) part) :
    part.Agrees S (s.writeReg d S.regs[d]) := by
  cases part with
  | flag b => exact h.resolve_right nofun
  | reg r =>
    refine (s.writeReg_getElem d r S.regs[d]).trans ?_
    split
    · rename_i hdr
      rw [hdr]
    · rename_i hdr
      exact h.resolve_right fun hw => hdr (Fin.ext ((toNat_ofNat_regIx d).symm.trans hw))

/-- A WFLG of values of the snapshot keeps the parts that agree with it, and brings the flags of its mask to agree. -/
theorem agrees_mergeFlags {S s : State} {fm f : FlagField} {part : SavedPart}
    (hbits : ∀ b, fm.getLsbD (flagBit b) = true → f.getLsbD (flagBit b) = (packFlags S.flags).getLsbD (flagBit b))
    (h : part.Agrees S s ∨ writesPart (.wflg fm f) part) :
    part.Agrees S (s.setFlags (mergeFlags fm f s.flags)) := by
  cases part with
  | reg r => exact h.resolve_right nofun
  | flag b =>
    refine (packFlags_mergeFlags_getLsbD fm f s.flags b).trans ?_
    split
    · rename_i hmask
      exact hbits b hmask
    · rename_i hmask
      exact h.resolve_right hmask

/-- A command of a load reports OK and no zero event, leaves the counter, keeps the parts that agree with the snapshot, and
brings those it writes to agree (R78, R79, R81). -/
theorem LoadsFrom.exec_agrees {S : State} {i : Instr} (h : LoadsFrom S i) (s : State) :
    ∃ u, exec i s = .next u ∧ Responds u .ok none ∧ u.turn = s.turn ∧
      ∀ part, part.Agrees S s ∨ writesPart i part → part.Agrees S u := by
  cases h with
  | wreg d =>
    refine ⟨_, exec_wreg_regIx d _ s, respond_responds _ _ _, rfl, fun part hpart => ?_⟩
    have := agrees_writeReg hpart
    cases part <;> exact this
  | wflg hbits =>
    refine ⟨_, exec_wflg _ _ s, respond_responds _ _ _, rfl, fun part hpart => ?_⟩
    have := agrees_mergeFlags hbits hpart
    cases part <;> exact this

/-! ### A list of commands -/

/-- At the edge that accepts the word of a command other than RAND, the command runs as it does without a host. -/
theorem step_driven_command {i : Instr} (hi : ∀ rd a b, i ≠ .rand rd a b) (hwf : WellFormed i) {s u : State}
    (hu : exec i s = .next u) (d : Word) (qs : List Pins) :
    step (s.driven (Pins.command (encode i) d :: qs)) = .next (u.driven qs) := by
  have hd := decodeOfEncodeIsInstr i hwf
  obtain ⟨t, ht, hpins⟩ := exec_withPins hi s (Pins.command (encode i) d)
  cases ht.symm.trans hu
  obtain ⟨act, hact, hexec⟩ := exec_edgeAction (s := s.driven (Pins.command (encode i) d :: qs)) rfl rfl hd
  have hu' := Host.Outcome.next.inj ((hexec { s with pins := Pins.command (encode i) d } rfl rfl).symm.trans hpins)
  have hlater := hact.withLater { s with pins := Pins.command (encode i) d } qs
  rw [hu'] at hlater
  have heffect :=
    (edgeEffect_of_command (s := s.driven (Pins.command (encode i) d :: qs)) rfl rfl hd).trans (hexec _ rfl rfl)
  exact (step_of_edgeEffect heffect).trans (congrArg (fun v => Host.Outcome.next v.advancePins) hlater)

/-- A load of a list of commands is the load of its first and then of the others. -/
theorem loadsTo_cons {i : Instr} {is : List Instr} {s u t : State} (hi : ∀ rd a b, i ≠ .rand rd a b)
    (hwf : WellFormed i) (hu : exec i s = .next u) (hresp : Responds u .ok none) (h : LoadsTo u is t) :
    LoadsTo s (i :: is) t := by
  have hstep := step_driven_command hi hwf hu 0 (commandPins is)
  obtain ⟨hrun, heach⟩ := h
  refine ⟨(run_succ_of_step hstep _).trans hrun, fun k hk => ?_⟩
  cases k with
  | zero => exact ⟨_, run_succ_of_step hstep 0, by simpa [Responds] using hresp⟩
  | succ k =>
    obtain ⟨v, hv, hv'⟩ := heach k (Nat.lt_of_succ_lt_succ hk)
    exact ⟨v, (run_succ_of_step hstep _).trans hv, hv'⟩

/-- Commands that load from a snapshot run to a state with the counter of the start, in which every part that one of them
writes agrees with the snapshot, in whatever order they come (R81). -/
theorem loadsTo_of_loadsFrom {S : State} {is : List Instr} (h : ∀ i ∈ is, LoadsFrom S i) (s : State) :
    ∃ t, LoadsTo s is t ∧ t.turn = s.turn ∧
      ∀ part, part.Agrees S s ∨ (∃ i ∈ is, writesPart i part) → part.Agrees S t := by
  induction is generalizing s with
  | nil =>
    refine ⟨s.driven [], ⟨rfl, fun k hk => absurd hk (Nat.not_lt_zero k)⟩, rfl, fun part hpart => ?_⟩
    have := hpart.resolve_right (by simp)
    cases part <;> exact this
  | cons i is ih =>
    obtain ⟨hi, his⟩ := List.forall_mem_cons.1 h
    obtain ⟨u, hu, hresp, hturn, hagrees⟩ := hi.exec_agrees s
    obtain ⟨t, ht, hturn', hagrees'⟩ := ih his u
    refine ⟨t, loadsTo_cons hi.ne_rand hi.wellFormed hu hresp ht, hturn'.trans hturn, fun part hpart => hagrees' part ?_⟩
    rw [List.exists_mem_cons_iff, ← or_assoc] at hpart
    exact hpart.imp_left (hagrees part)

/-! ### The two forms of a load (R55, R81) -/

/-- The commands load from the snapshot of `S`, and between them write every part of it. -/
structure RestoresFrom (S : State) (is : List Instr) : Prop where
  loads : ∀ i ∈ is, LoadsFrom S i
  covers : ∀ part, ∃ i ∈ is, writesPart i part

/-- The order of the commands does not matter. -/
theorem RestoresFrom.perm {S : State} {is js : List Instr} (h : RestoresFrom S js) (hp : is.Perm js) :
    RestoresFrom S is where
  loads i hi := h.loads i (hp.mem_iff.1 hi)
  covers part := by simpa only [hp.mem_iff] using h.covers part

theorem restoresFrom_loadWhole (S : State) : RestoresFrom S (loadWhole (outputs S)) where
  loads i hi := by
    simp only [loadWhole, List.mem_append, List.mem_map, List.mem_finRange, true_and, List.mem_singleton] at hi
    obtain ⟨d, rfl⟩ | rfl := hi
    · exact .wreg d
    · exact .wflg fun _ _ => rfl
  covers part := by
    cases part with
    | reg r =>
      exact ⟨_, List.mem_append_left _ (List.mem_map_of_mem (List.mem_finRange r)), toNat_ofNat_regIx r⟩
    | flag b => exact ⟨_, List.mem_append_right _ (List.mem_singleton_self _), by cases b <;> rfl⟩

/-- The commands of the entries of a `save` are a WREG per register and a one-flag WFLG per flag. -/
theorem mem_loadCommands_saveEntries {S : State} {i : Instr} :
    i ∈ loadCommands (saveEntries (outputs S)) ↔
      (∃ d : RegIx, i = .wreg (BitVec.ofNat 4 d.val) S.regs[d]) ∨
        ∃ b, i = flagCommand b ((packFlags S.flags).getLsbD (flagBit b)) := by
  have hflags : ∀ b : FlagName, b ∈ [FlagName.n, .z, .c, .v] := fun b => by cases b <;> decide
  simp only [loadCommands, saveEntries, List.flatMap_append, List.flatMap_map, List.mem_append, List.mem_flatMap,
    entryCommands, List.mem_finRange, hflags, true_and, Fin.is_lt, if_true, List.mem_singleton, outputs]

/-- The mask of a one-flag WFLG selects that flag and no other (R55). -/
theorem flagMask_getLsbD (b b' : FlagName) : (flagMask b).getLsbD (flagBit b') = true ↔ b = b' := by
  cases b <;> cases b' <;> decide

theorem restoresFrom_loadCommands (S : State) : RestoresFrom S (loadCommands (saveEntries (outputs S))) where
  loads i hi := by
    obtain ⟨d, rfl⟩ | ⟨b, rfl⟩ := mem_loadCommands_saveEntries.1 hi
    · exact .wreg d
    · refine .wflg fun b' hb => ?_
      obtain rfl := (flagMask_getLsbD b b').1 hb
      split <;> simp_all
  covers part := by
    cases part with
    | reg r => exact ⟨_, mem_loadCommands_saveEntries.2 (.inl ⟨r, rfl⟩), toNat_ofNat_regIx r⟩
    | flag b => exact ⟨_, mem_loadCommands_saveEntries.2 (.inr ⟨b, rfl⟩), (flagMask_getLsbD b b).2 rfl⟩

/-! ### The obligation -/

/-- Settles O46: both forms load from the snapshot and cover it, which the order does not change; so in the end every saved
part agrees. -/
theorem saveThenLoadRestoresRegistersAndFlags : Obligations.SaveThenLoadRestoresRegistersAndFlags := by
  intro S S0 is hperm
  have hrestores : RestoresFrom S is :=
    hperm.elim (restoresFrom_loadWhole S).perm (restoresFrom_loadCommands S).perm
  obtain ⟨t, ht, hturn, hagrees⟩ := loadsTo_of_loadsFrom hrestores.loads S0
  obtain ⟨hregs, hflags⟩ := regs_flags_eq_of_agrees fun part => hagrees part (.inr (hrestores.covers part))
  exact ⟨t, ht, hregs, hflags, hturn⟩

end Sys2Proof.Machine

/-! ## The flag generators, RAND's bounds and the merge of WFLG (R60 to R79) -/

namespace Sys2Proof.Machine

/-- The destination of a commit reads back as the result (R59). -/
theorem commit_regs_self (s : State) {rd : RegField} (h : rd.toNat < 8) (res : Word) (f : Flags) :
    (s.commit ⟨rd.toNat, h⟩ res f).regs[rd.toNat] = res := by
  simp

/-! ### Carries as bits of a wider result (R62, R65, R68) -/

/-- The top bit of a 33-bit value. -/
theorem getLsbD_32_eq_decide (x : BitVec 33) : x.getLsbD 32 = decide (2 ^ 32 ≤ x.toNat) :=
  (BitVec.msb_eq_getLsbD_last x).symm.trans (BitVec.msb_eq_decide x)

theorem addCarry_eq_bit32 (a b : Word) : addCarry a b = (a.setWidth 33 + b.setWidth 33).getLsbD 32 := by
  have ha := a.isLt
  have hb := b.isLt
  rw [addCarry, getLsbD_32_eq_decide, decide_eq_decide]
  simp only [BitVec.toNat_add, BitVec.toNat_setWidth]
  omega

theorem subCarry_eq_bit32 (a b : Word) : subCarry a b = (a.setWidth 33 + (~~~b).setWidth 33 + 1).getLsbD 32 := by
  have ha := a.isLt
  have hb := b.isLt
  rw [subCarry, getLsbD_32_eq_decide, decide_eq_decide]
  simp only [BitVec.toNat_add, BitVec.toNat_setWidth, BitVec.toNat_not, BitVec.ofNat_eq_ofNat, BitVec.toNat_ofNat]
  omega

/-- The full product has 64 bits, of which the high half is its quotient by 2^32. -/
theorem mulCarry_iff_high (a b : Word) :
    mulCarry a b = true ↔ (a.setWidth 64 * b.setWidth 64).extractLsb' 32 32 ≠ 0 := by
  have hprod : a.toNat * b.toNat < 2 ^ 32 * 2 ^ 32 := Nat.mul_lt_mul'' a.isLt b.isLt
  have hfull : (a.setWidth 64 * b.setWidth 64).toNat = a.toNat * b.toNat := by
    have ha := Nat.mod_eq_of_lt (a.isLt.trans (by decide : 2 ^ 32 < 2 ^ 64))
    have hb := Nat.mod_eq_of_lt (b.isLt.trans (by decide : 2 ^ 32 < 2 ^ 64))
    rw [BitVec.toNat_mul, BitVec.toNat_setWidth, BitVec.toNat_setWidth, ha, hb, Nat.mod_eq_of_lt (by omega)]
  rw [mulCarry, decide_eq_true_iff, ne_eq, ← BitVec.toNat_inj, BitVec.extractLsb'_toNat, hfull, Nat.shiftRight_eq_div_pow]
  generalize a.toNat * b.toNat = n at hprod
  simp only [BitVec.ofNat_eq_ofNat, BitVec.toNat_ofNat]
  omega

/-! ### Overflows as the exact signed result out of range (R63, R66, R69) -/

theorem addOverflow_iff_signs (a b res : Word) : addOverflow a b res = true ↔
    a.getLsbD 31 = b.getLsbD 31 ∧ res.getLsbD 31 ≠ a.getLsbD 31 := by
  simp [addOverflow, signBit]

theorem subOverflow_iff_signs (a b res : Word) : subOverflow a b res = true ↔
    a.getLsbD 31 ≠ b.getLsbD 31 ∧ a.getLsbD 31 ≠ res.getLsbD 31 := by
  simp [subOverflow, signBit]

theorem addOverflow_iff_range (a b : Word) : addOverflow a b (a + b) = true ↔
    a.toInt + b.toInt < -2 ^ 31 ∨ 2 ^ 31 - 1 < a.toInt + b.toInt := by
  have h : addOverflow a b (a + b) = a.saddOverflow b := by
    simp only [BitVec.saddOverflow_eq, addOverflow, signBit_eq_msb]
    cases a.msb <;> cases b.msb <;> cases (a + b).msb <;> rfl
  rw [h, BitVec.saddOverflow, Bool.or_eq_true, decide_eq_true_iff, decide_eq_true_iff]
  omega

theorem subOverflow_iff_range (a b : Word) : subOverflow a b (a - b) = true ↔
    a.toInt - b.toInt < -2 ^ 31 ∨ 2 ^ 31 - 1 < a.toInt - b.toInt := by
  have h : subOverflow a b (a - b) = a.ssubOverflow b := by
    simp only [BitVec.ssubOverflow_eq, subOverflow, signBit_eq_msb]
    cases a.msb <;> cases b.msb <;> cases (a - b).msb <;> rfl
  rw [h, BitVec.ssubOverflow, Bool.or_eq_true, decide_eq_true_iff, decide_eq_true_iff]
  omega

theorem mulOverflow_iff_range (a b : Word) : mulOverflow a b = true ↔
    a.toInt * b.toInt < -2 ^ 31 ∨ 2 ^ 31 - 1 < a.toInt * b.toInt := by
  rw [mulOverflow_eq, Bool.not_eq_true', decide_eq_false_iff_not, not_and_or, not_le, not_le]

/-- A 64-bit value is a signed 32-bit one exactly when its 33 top bits are copies of one bit. -/
theorem toInt_out_of_range_iff_top (x : BitVec 64) :
    x.toInt < -2 ^ 31 ∨ 2 ^ 31 - 1 < x.toInt ↔ x.extractLsb' 31 33 ≠ 0 ∧ x.extractLsb' 31 33 ≠ BitVec.allOnes 33 := by
  have hx := x.isLt
  simp only [ne_eq, ← BitVec.toNat_inj, BitVec.extractLsb'_toNat, Nat.shiftRight_eq_div_pow, BitVec.toNat_allOnes,
    BitVec.ofNat_eq_ofNat, BitVec.toNat_ofNat, BitVec.toInt_eq_toNat_cond]
  split <;> omega

/-- The 64-bit product of two sign-extended words is their exact product. -/
theorem toInt_mul_signExtend (a b : Word) : (a.signExtend 64 * b.signExtend 64).toInt = a.toInt * b.toInt := by
  have hlo : -2 ^ 62 ≤ a.toInt * b.toInt := BitVec.le_toInt_mul_toInt
  have hhi : a.toInt * b.toInt ≤ 2 ^ 62 := BitVec.toInt_mul_toInt_le
  rw [BitVec.toInt_mul, BitVec.toInt_signExtend_of_le (by decide), BitVec.toInt_signExtend_of_le (by decide)]
  exact Int.bmod_eq_of_le (by omega) (by omega)

/-! ### Signed and unsigned readings of a result (R71) -/

theorem ofInt_toNat (a : Word) : BitVec.ofInt 32 a.toNat = a := by
  rw [BitVec.ofInt_natCast, BitVec.ofNat_toNat, BitVec.setWidth_eq]

theorem ofInt_sub (x y : Int) : BitVec.ofInt 32 (x - y) = BitVec.ofInt 32 x - BitVec.ofInt 32 y := by
  rw [Int.sub_eq_add_neg, BitVec.ofInt_add, BitVec.ofInt_neg, BitVec.sub_eq_add_neg]

/-! ### RAND with a draw in its range (R74) -/

theorem drawInRange_comm (a b d : Word) : drawInRange a b d = drawInRange b a d := by
  rw [Bool.eq_iff_iff, drawInRange_iff, drawInRange_iff, min_comm, max_comm]

theorem exec_rand_comm (rd : RegField) (a b : Word) (s : State) :
    exec (.rand rd a b) s = exec (.rand rd b a) s := by
  simp only [exec, execRand, drawInRange_comm a b]

/-- RAND writes a draw that lies in its range. -/
theorem exec_rand_writes {rd : RegField} (h : rd.toNat < 8) {a b : Word} {s : State}
    (hlo : min a.toNat b.toNat ≤ s.pins.rngValue.toNat) (hhi : s.pins.rngValue.toNat ≤ max a.toNat b.toNat) :
    ∃ t, exec (.rand rd a b) s = .next t ∧ t.rspStatus = .ok ∧ t.regs[rd.toNat] = s.pins.rngValue :=
  ⟨_, exec_rand_of_drawInRange h ((drawInRange_iff _ _ _).2 ⟨hlo, hhi⟩), rfl, commit_regs_self s h _ _⟩

/-! ### The masked merge (R20, R79) -/

theorem exists_flagBit_eq {j : Nat} (hj : j < 4) : ∃ b, flagBit b = j := by
  interval_cases j
  · exact ⟨.v, rfl⟩
  · exact ⟨.c, rfl⟩
  · exact ⟨.z, rfl⟩
  · exact ⟨.n, rfl⟩

theorem packFlags_mergeFlags (fm f : FlagField) (old : Flags) :
    packFlags (mergeFlags fm f old) = (packFlags old &&& ~~~fm) ||| (f &&& fm) := by
  apply BitVec.eq_of_getLsbD_eq
  intro j hj
  obtain ⟨b, rfl⟩ := exists_flagBit_eq hj
  rw [packFlags_mergeFlags_getLsbD]
  simp only [BitVec.getLsbD_or, BitVec.getLsbD_and, BitVec.getLsbD_not, hj, decide_true, Bool.true_and]
  cases fm.getLsbD (flagBit b) <;> simp

/-! ### The obligations -/

/-- Settles O24: the merge, flag by flag, on the packed flags. -/
theorem wflgIsAMaskedMerge : Obligations.WflgIsAMaskedMerge :=
  fun s fm f => ⟨_, exec_wflg fm f s, packFlags_mergeFlags fm f s.flags⟩

/-- Settles O25: the range is that of the exchanged bounds; with equal bounds it is one value, and the full range has no
outside. -/
theorem randBoundsInEitherOrder : Obligations.RandBoundsInEitherOrder := by
  intro s rd a b
  refine ⟨exec_rand_comm rd a b s, fun h => ⟨fun heq => ?equal, fun hne => ?other, ?full⟩⟩
  case equal => simpa only [heq] using exec_rand_writes (a := a) (b := a) (s := s) h (by simp [heq]) (by simp [heq])
  case other =>
    have hout : ¬ drawInRange a a s.pins.rngValue = true := by
      rw [drawInRange_iff, min_self, max_self]
      exact fun hin => hne (BitVec.eq_of_toNat_eq (Nat.le_antisymm hin.2 hin.1))
    exact ⟨_, exec_rand_of_not_drawInRange h hout, refuse_turnedAway s _⟩
  case full =>
    have hmax : s.pins.rngValue.toNat ≤ 0xFFFFFFFF := Nat.le_of_lt_succ s.pins.rngValue.isLt
    exact exec_rand_writes h (by simp) (by simpa using hmax)

/-- Settles O26: the draw is the pin's value, and it lies in the range. -/
theorem everyDrawInRangeIsPossible : Obligations.EveryDrawInRangeIsPossible :=
  fun s _ _ _ v h hlo hhi => exec_rand_writes (s := { s with pins := { s.pins with rngValue := v } }) h hlo hhi

/-- Settles O28: the carry of ADD as R62 states it and as a bit of the 33-bit sum. -/
theorem addCarryIsBit32OfTheSum : Obligations.AddCarryIsBit32OfTheSum :=
  fun s _ b h => ⟨_, exec_add_of_lt h b s, decide_eq_true_iff, addCarry_eq_bit32 _ _⟩

/-- Settles O29: the overflow of ADD by signs, and by the exact sum. -/
theorem addOverflowIffSignedSumOutOfRange : Obligations.AddOverflowIffSignedSumOutOfRange := by
  intro s rd b h
  refine ⟨_, exec_add_of_lt h b s, ?signs, addOverflow_iff_range _ _⟩
  rw [commit_regs_self]
  exact addOverflow_iff_signs _ _ _

/-- Settles O30: the carry of SUB as R65 states it and as a bit of the 33-bit sum. -/
theorem subCarryIsNoBorrow : Obligations.SubCarryIsNoBorrow :=
  fun s _ b h => ⟨_, exec_sub_of_lt h b s, decide_eq_true_iff, subCarry_eq_bit32 _ _⟩

/-- Settles O31: the overflow of SUB by signs, and by the exact difference. -/
theorem subOverflowIffSignedDifferenceOutOfRange : Obligations.SubOverflowIffSignedDifferenceOutOfRange := by
  intro s rd b h
  refine ⟨_, exec_sub_of_lt h b s, ?signs, subOverflow_iff_range _ _⟩
  rw [commit_regs_self]
  exact subOverflow_iff_signs _ _ _

/-- Settles O32: the carry of MUL as R68 states it and by the high half of the product. -/
theorem mulCarryIffHighHalfNotZero : Obligations.MulCarryIffHighHalfNotZero :=
  fun s _ _ h g => ⟨_, exec_mul_of_lt h g s, decide_eq_true_iff, mulCarry_iff_high _ _⟩

/-- Settles O33: the 64-bit signed product is the exact one, and its range is read from its top 33 bits. -/
theorem mulOverflowIffTopBitsDiffer : Obligations.MulOverflowIffTopBitsDiffer := by
  intro s rd rs h g
  have hrange := mulOverflow_iff_range s.regs[rd.toNat] s.regs[rs.toNat]
  have htop := toInt_out_of_range_iff_top (s.regs[rd.toNat].signExtend 64 * s.regs[rs.toNat].signExtend 64)
  rw [toInt_mul_signExtend] at htop
  exact ⟨_, exec_mul_of_lt h g s, hrange, hrange.trans htop⟩

/-- Settles O34: MUL's commit with one register for both factors; a square is never below the signed range. -/
theorem mulOfOneRegisterSquaresTheOldValue : Obligations.MulOfOneRegisterSquaresTheOldValue := by
  intro s rd h
  obtain ⟨t, ht, hcommit⟩ := (mulCommand.2 s rd rd).1 h h
  refine ⟨t, ht, ?_⟩
  have hsquare : 0 ≤ s.regs[rd.toNat].toInt * s.regs[rd.toNat].toInt := mul_self_nonneg _
  have hoverflow : (!decide (-2 ^ 31 ≤ s.regs[rd.toNat].toInt * s.regs[rd.toNat].toInt ∧
      s.regs[rd.toNat].toInt * s.regs[rd.toNat].toInt ≤ 2 ^ 31 - 1)) =
        decide (s.regs[rd.toNat].toInt * s.regs[rd.toNat].toInt > 2 ^ 31 - 1) := by
    rw [← decide_not, decide_eq_decide]
    omega
  simp only [hoverflow] at hcommit
  simpa only [pow_two] using hcommit

/-- Settles O35: reading an integer modulo 2^32 respects sum, difference and product, and either reading of a word gives the
word back. -/
theorem resultsAgreeUnderSignedReading : Obligations.ResultsAgreeUnderSignedReading := by
  intro s rd rs imm h g
  refine ⟨_, _, _, exec_add_of_lt h imm s, exec_sub_of_lt h imm s, exec_mul_of_lt h g s, ?_⟩
  simp only [commit_regs_self, BitVec.ofInt_add, ofInt_sub, BitVec.ofInt_mul, BitVec.ofInt_toInt, ofInt_toNat, and_self]

end Sys2Proof.Machine

/-! ## The ports (R28, R82) -/

namespace Sys2Proof.Machine

/-- The codes of R82 tell the statuses apart. -/
theorem statusCode_inj (st st' : Status) : statusCode st = statusCode st' ↔ st = st' := by
  cases st <;> cases st' <;> decide

/-- A port of the zero event has the bit of its register and no other. -/
theorem oneHot_getLsbD (z : Option RegIx) (i : RegIx) : (oneHot z).getLsbD i.val = true ↔ z = some i := by
  revert z i
  decide

/-- Under another opcode than RAND's the range ports are 0. -/
theorem hasRandOpcode_of_fieldOp_ne {w : Command} (h : (fieldOp w).toNat ≠ 0x5) : ¬ hasRandOpcode w = true := by
  rw [hasRandOpcode, decide_eq_true_iff, opcodeOf_eq_some]
  intro hop
  exact h (by rw [hop]; rfl)

/-- Settles O48, port by port. -/
theorem portsShowResponseAndRange : Obligations.PortsShowResponseAndRange := by
  intro s
  refine ⟨rfl, rfl, statusCode_inj _ .ok, statusCode_inj _ .usage, statusCode_inj _ .unrecognized,
    statusCode_inj _ .rngRange, oneHot_getLsbD s.rspZeroed, fun hz => ?none, fun hop => ?rand, fun hop => ?other⟩
  case none => simp [outputs, hz, oneHot]
  case rand => exact outputs_range_of_fieldOp (BitVec.eq_of_toNat_eq hop)
  case other =>
    have hrand := hasRandOpcode_of_fieldOp_ne hop
    exact ⟨if_neg hrand, if_neg hrand⟩

end Sys2Proof.Machine

/-! ## The host's command lines (R50 to R56) -/

namespace Sys2Proof.Machine

/-! ### Decimal numbers (R51, R52) -/

/-- Zeros before a number's own digits leave its value. -/
theorem decimal_zeros_toDigits (zeros n : Nat) : decimal (List.replicate zeros '0' ++ Nat.toDigits 10 n) = some n := by
  have hdigits : (List.replicate zeros '0' ++ Nat.toDigits 10 n).all Char.isDigit = true := by
    rw [List.all_eq_true]
    intro c hc
    obtain hc | hc := List.mem_append.1 hc
    · rw [List.eq_of_mem_replicate hc]
      decide
    · exact Nat.isDigit_of_mem_toDigits (by decide) (by decide) hc
  rw [decimal_of_digits (by simp [Nat.toDigits_ne_nil]) hdigits, Nat.ofDigitChars_append, Nat.ofDigitChars_replicate_zero,
    Nat.mul_zero, Nat.ofDigitChars_ten_toDigits]

theorem decimal_of_mem_not_digit {t : Text} {c : Char} (hc : c ∈ t) (h : c.isDigit = false) : decimal t = none :=
  decimal_of_not_digits (List.all_eq_false.2 ⟨c, hc, by simp [h]⟩)

/-- A text that begins with a digit has no `r` or `R` to strip. -/
theorem stripPrefix_cons_of_digit {c : Char} (h : c.isDigit = true) (cs : Text) : stripPrefix (c :: cs) = c :: cs := by
  unfold stripPrefix
  split <;> simp_all [Char.isDigit]

/-- R51: the optional `r` or `R` before a digit is stripped. -/
theorem stripPrefix_append {p : Text} (hp : p ∈ [[], ['r'], ['R']]) {c : Char} (h : c.isDigit = true) (cs : Text) :
    stripPrefix (p ++ c :: cs) = c :: cs := by
  simp only [List.mem_cons, List.not_mem_nil, or_false] at hp
  obtain rfl | rfl | rfl := hp
  · exact stripPrefix_cons_of_digit h cs
  · rfl
  · rfl

theorem regRef_eq_of_decimal {t : Text} {n : Nat} (h : decimal (stripPrefix t) = some n) :
    regRef t = if n < 8 then some (BitVec.ofNat 4 n) else none := by
  simp only [regRef, h]

theorem regRef_eq_none_of_decimal {t : Text} (h : decimal (stripPrefix t) = none) : regRef t = none := by
  simp only [regRef, h]

theorem unsignedInt_eq_of_decimal {t : Text} {n : Nat} (h : decimal t = some n) :
    unsignedInt t = if n < 2 ^ 32 then some (BitVec.ofNat 32 n) else none := by
  simp only [unsignedInt, h]

theorem unsignedInt_eq_none_of_decimal {t : Text} (h : decimal t = none) : unsignedInt t = none := by
  simp only [unsignedInt, h]

/-- The digits of a number, with zeros before them, begin with a digit. -/
theorem zeros_toDigits_eq_cons (zeros n : Nat) :
    ∃ c cs, List.replicate zeros '0' ++ Nat.toDigits 10 n = c :: cs ∧ c.isDigit = true := by
  cases zeros with
  | zero =>
    obtain ⟨c, cs, h⟩ := List.exists_cons_of_ne_nil (Nat.toDigits_ne_nil (n := n) (b := 10))
    exact ⟨c, cs, h, Nat.isDigit_of_mem_toDigits (by decide) (by decide) (h ▸ List.mem_cons_self)⟩
  | succ zeros => exact ⟨'0', _, rfl, by decide⟩

/-- Settles O49: `r` or `R` is stripped, and the digits after it are a decimal number. -/
theorem registerRefsReadDecimalIndices : Obligations.RegisterRefsReadDecimalIndices := by
  refine ⟨fun n zeros p hp => ?digits, fun t c hc h => ?other, by decide⟩
  case digits =>
    apply regRef_eq_of_decimal
    have hdec := decimal_zeros_toDigits zeros n
    obtain ⟨c, cs, heq, hc⟩ := zeros_toDigits_eq_cons zeros n
    rw [List.append_assoc, heq, stripPrefix_append hp hc, ← heq, hdec]
  case other => exact regRef_eq_none_of_decimal (decimal_of_mem_not_digit hc h)

/-- Settles O52: the digits are a decimal number, and any other token is none. -/
theorem operandSpellingsAreReadOrRefused : Obligations.OperandSpellingsAreReadOrRefused := by
  refine ⟨fun n zeros => ?digits, fun t c hc h => ?other, rfl⟩
  case digits =>
    rw [unsignedInt_eq_of_decimal (decimal_zeros_toDigits zeros n)]
    exact if_congr Nat.lt_succ_iff rfl rfl
  case other => exact unsignedInt_eq_none_of_decimal (decimal_of_mem_not_digit hc h)

/-! ### Tokens (R50) -/

/-- A text that is one token: characters, none of which is white space. -/
def IsWord (w : Text) : Prop := w ≠ [] ∧ ∀ c ∈ w, isSpace c = false

/-- Characters that are no white space are added to the token begun. -/
theorem tokensFrom_append {w : Text} (hw : ∀ c ∈ w, isSpace c = false) (cur rest : Text) :
    tokensFrom cur (w ++ rest) = tokensFrom (w.reverse ++ cur) rest := by
  induction w generalizing cur with
  | nil => rfl
  | cons c cs ih =>
    obtain ⟨hc, hcs⟩ := List.forall_mem_cons.1 hw
    simp only [List.cons_append, tokensFrom, hc, Bool.false_eq_true, if_false, ih hcs, List.reverse_cons, List.append_assoc,
      List.nil_append]

theorem IsWord.tokens {w : Text} (hw : IsWord w) : tokens w = [w] := by
  obtain ⟨hne, hspace⟩ := hw
  have h := tokensFrom_append hspace [] []
  simpa [Machine.tokens, tokensFrom, hne] using h

/-- A word and a space are the first token of a line. -/
theorem IsWord.tokens_append {w : Text} (hw : IsWord w) (rest : Text) :
    Machine.tokens (w ++ ([' '] ++ rest)) = w :: Machine.tokens rest := by
  obtain ⟨hne, hspace⟩ := hw
  have h := tokensFrom_append hspace [] ([' '] ++ rest)
  simpa [Machine.tokens, tokensFrom, isSpace, hne] using h

/-- A digit is no white space. -/
theorem isSpace_of_isDigit {c : Char} (h : c.isDigit = true) : isSpace c = false := by
  cases hs : isSpace c with
  | false => rfl
  | true =>
    simp only [isSpace, Bool.or_eq_true, beq_iff_eq] at hs
    obtain ((rfl | rfl) | rfl) | rfl := hs <;> exact absurd h (by decide)

theorem isWord_append_toDigits {p : Text} (hp : p ∈ [[], ['r'], ['R']]) (n : Nat) : IsWord (p ++ Nat.toDigits 10 n) := by
  have hspelled : ∀ p ∈ [[], ['r'], ['R']], ∀ c ∈ p, isSpace c = false := by simp [isSpace]
  refine ⟨by simp [Nat.toDigits_ne_nil], fun c hc => ?_⟩
  obtain hc | hc := List.mem_append.1 hc
  · exact hspelled p hp c hc
  · exact isSpace_of_isDigit (Nat.isDigit_of_mem_toDigits (by decide) (by decide) hc)

/-! ### Lines (R53, R54) -/

/-- A line whose first token is a keyword has that keyword's meaning (R50). -/
theorem assembleLine_of_tokens {line kw : Text} {args : List Text} {k : Keyword} (ht : tokens line = kw :: args)
    (hk : keywordOf (kw.map Char.toLower) = some k) : assembleLine line = keywordLine k args := by
  simp only [assembleLine, ht, hk]

/-- The line of a keyword and two operands. -/
theorem assembleLine_two {kw x y : Text} {k : Keyword} (hk : keywordOf (kw.map Char.toLower) = some k) (hkw : IsWord kw)
    (hx : IsWord x) (hy : IsWord y) : assembleLine (kw ++ [' '] ++ x ++ [' '] ++ y) = keywordLine k [x, y] := by
  refine assembleLine_of_tokens ?_ hk
  simp only [List.append_assoc, hkw.tokens_append, hx.tokens_append, hy.tokens]

/-- The line of a keyword and three operands. -/
theorem assembleLine_three {kw x y z : Text} {k : Keyword} (hk : keywordOf (kw.map Char.toLower) = some k)
    (hkw : IsWord kw) (hx : IsWord x) (hy : IsWord y) (hz : IsWord z) :
    assembleLine (kw ++ [' '] ++ x ++ [' '] ++ y ++ [' '] ++ z) = keywordLine k [x, y, z] := by
  refine assembleLine_of_tokens ?_ hk
  simp only [List.append_assoc, hkw.tokens_append, hx.tokens_append, hy.tokens_append, hz.tokens]

theorem regIntLine_of_read {mk : RegField → Word → Instr} {x a : Text} {r : RegField} {n : Word}
    (ha : unsignedInt a = some n) (hx : readRef x = .ok (some r)) : regIntLine mk x a = .ok (.issue (mk r n)) := by
  simp only [regIntLine, ha, hx]

theorem randLine_of_unsignedInt {x a b : Text} {m : Word} (ha : unsignedInt a = some m) :
    randLine x a b = regIntLine (fun r n => .rand r m n) x b := by
  simp only [randLine, ha]

theorem mulLine_of_read {x y : Text} {r q : RegField} (hx : readRef x = .ok (some r)) (hy : readRef y = .ok (some q)) :
    mulLine x y = .ok (.issue (.mul r q)) := by
  simp only [mulLine, hx, hy]

/-- A register in any of its three spellings is read as that register (R51). -/
theorem readRef_append_toDigits {p : Text} (hp : p ∈ [[], ['r'], ['R']]) (x : RegIx) :
    readRef (p ++ Nat.toDigits 10 x.val) = .ok (some (BitVec.ofNat 4 x.val)) := by
  have h := registerRefsReadDecimalIndices.1 x.val 0 p hp
  rw [List.replicate_zero, List.append_nil, if_pos x.isLt] at h
  exact readRef_of_regRef h

/-- An operand in decimal is read as that operand (R52). -/
theorem unsignedInt_toDigits (a : Word) : unsignedInt (Nat.toDigits 10 a.toNat) = some a := by
  have h := operandSpellingsAreReadOrRefused.1 a.toNat 0
  rw [List.replicate_zero, List.nil_append, if_pos (Nat.le_of_lt_succ a.isLt)] at h
  rw [h, BitVec.ofNat_toNat, BitVec.setWidth_eq]

/-- Settles O50: each line's tokens, its keyword, and its operands as they are read. -/
theorem commandLinesIssueTheirCommands : Obligations.CommandLinesIssueTheirCommands := by
  intro x y a b p hp q hq X Y A B rx
  have hX : IsWord X := isWord_append_toDigits hp x.val
  have hY : IsWord Y := isWord_append_toDigits hq y.val
  have hA : IsWord A := isWord_append_toDigits List.mem_cons_self a.toNat
  have hB : IsWord B := isWord_append_toDigits List.mem_cons_self b.toNat
  have hx : readRef X = .ok (some rx) := readRef_append_toDigits hp x
  have hy : readRef Y = .ok (some (BitVec.ofNat 4 y.val)) := readRef_append_toDigits hq y
  have ha : unsignedInt A = some a := unsignedInt_toDigits a
  have hb : unsignedInt B = some b := unsignedInt_toDigits b
  refine ⟨?add, ?sub, ?mov, ?mul, ?rand, by decide⟩
  case add =>
    exact (assembleLine_two (kw := ['a', 'd', 'd']) (k := .add) (by decide) ⟨by decide, by simp [isSpace]⟩ hX hA).trans
      (regIntLine_of_read ha hx)
  case sub =>
    exact (assembleLine_two (kw := ['s', 'u', 'b']) (k := .sub) (by decide) ⟨by decide, by simp [isSpace]⟩ hX hA).trans
      (regIntLine_of_read ha hx)
  case mov =>
    exact (assembleLine_two (kw := ['m', 'o', 'v']) (k := .mov) (by decide) ⟨by decide, by simp [isSpace]⟩ hX hA).trans
      (regIntLine_of_read ha hx)
  case mul =>
    exact (assembleLine_two (kw := ['m', 'u', 'l']) (k := .mul) (by decide) ⟨by decide, by simp [isSpace]⟩ hX hY).trans
      (mulLine_of_read hx hy)
  case rand =>
    exact (assembleLine_three (kw := ['r', 'a', 'n', 'd']) (k := .rand) (by decide) ⟨by decide, by simp [isSpace]⟩ hX hA
      hB).trans ((randLine_of_unsignedInt ha).trans (regIntLine_of_read hb hx))

/-- Settles O51: each keyword has a meaning for one number of operands, and every other number falls to the last case. -/
theorem wrongOperandCountIsAUsageError : Obligations.WrongOperandCountIsAUsageError := by
  intro k args h
  unfold keywordLine
  split
  case h_14 => rfl
  all_goals exact absurd rfl h

/-! ### Refused operands and refs (R51, R52, I7) -/

theorem regIntLine_of_refused {mk : RegField → Word → Instr} {x a : Text} (ha : unsignedInt a = none) :
    regIntLine mk x a = .error (.operandSpelling a) := by
  simp only [regIntLine, ha]

theorem regIntLine_of_unshown {mk : RegField → Word → Instr} {x a : Text} (ha : (unsignedInt a).isSome = true)
    (hx : UnshownIndex x) : regIntLine mk x a = .error (.registerSpelling x) := by
  obtain ⟨n, hn⟩ := Option.isSome_iff_exists.1 ha
  simp only [regIntLine, hn, readRef_of_unshown hx]

theorem regIntLine_of_rejected {mk : RegField → Word → Instr} {x a : Text} (ha : (unsignedInt a).isSome = true)
    (hx : RejectedIndex x) : regIntLine mk x a = .ok .usageError := by
  obtain ⟨n, hn⟩ := Option.isSome_iff_exists.1 ha
  simp only [regIntLine, hn, readRef_of_rejected hx]

theorem randLine_of_refused {x a b : Text} (ha : unsignedInt a = none) :
    randLine x a b = .error (.operandSpelling a) := by
  simp only [randLine, ha]

/-- `add`, `sub` and `mov` have lines of a register ref and an integer (R54). -/
theorem keywordLine_regInt {k : Keyword} (hk : k ∈ [.add, .sub, .mov]) (x a : Text) :
    ∃ mk, keywordLine k [x, a] = regIntLine mk x a := by
  simp only [List.mem_cons, List.not_mem_nil, or_false] at hk
  obtain rfl | rfl | rfl := hk <;> exact ⟨_, rfl⟩

theorem mulLine_of_unshown_left {x : Text} (hx : UnshownIndex x) (y : Text) :
    mulLine x y = .error (.registerSpelling x) := by
  simp only [mulLine, readRef_of_unshown hx]

theorem mulLine_of_unshown_right {x y : Text} (hx : ¬ UnshownIndex x) (hy : UnshownIndex y) :
    mulLine x y = .error (.registerSpelling y) := by
  simp only [mulLine, readRef_of_not_unshown hx, readRef_of_unshown hy]

/-- `mul` with two refs that are read, of which one is no register, is a usage error. -/
theorem mulLine_of_read_none {x y : Text} {o o' : Option RegField} (hx : readRef x = .ok o) (hy : readRef y = .ok o')
    (h : o = none ∨ o' = none) : mulLine x y = .ok .usageError := by
  simp only [mulLine, hx, hy]
  obtain rfl | rfl := h
  · cases o' <;> rfl
  · cases o <;> rfl

/-- Settles O54: the ref is read after the integers, at its place in the line of each keyword. -/
theorem registerRefsAreRefusedOrUsageErrors : Obligations.RegisterRefsAreRefusedOrUsageErrors := by
  refine ⟨fun k line kw x a hk hkw ht ha => ?regInt, fun line kw x a b hkw ht ha hb => ?rand,
    fun line kw x y hkw ht => ?mul⟩
  case regInt =>
    obtain ⟨mk, hmk⟩ := keywordLine_regInt hk x a
    rw [assembleLine_of_tokens ht hkw, hmk]
    exact ⟨regIntLine_of_unshown ha, regIntLine_of_rejected ha⟩
  case rand =>
    obtain ⟨m, hm⟩ := Option.isSome_iff_exists.1 ha
    have hline := (assembleLine_of_tokens ht hkw).trans (randLine_of_unsignedInt hm)
    rw [hline]
    exact ⟨regIntLine_of_unshown hb, regIntLine_of_rejected hb⟩
  case mul =>
    have hline : assembleLine line = mulLine x y := assembleLine_of_tokens ht hkw
    rw [hline]
    refine ⟨fun hx => mulLine_of_unshown_left hx y, mulLine_of_unshown_right, fun hx hy hrej => ?_⟩
    obtain hrej | hrej := hrej
    · exact mulLine_of_read_none (readRef_of_rejected hrej) (readRef_of_not_unshown hy) (.inl rfl)
    · exact mulLine_of_read_none (readRef_of_not_unshown hx) (readRef_of_rejected hrej) (.inr rfl)

/-! ### Scripts (R52, R56) -/

/-- What one line adds to a script: nothing when it is skipped, and otherwise its command line (R56). -/
def scriptLine (n : Nat) (line : Text) : Except RefusedLine (List HostLine) :=
  if line.dropWhile isSpace = [] ∨ (line.dropWhile isSpace).head? = some '#' then .ok []
  else (numberedLine n line).map ([·])

theorem scriptLine_of_skips {n : Nat} {line : Text} (h : scriptSkips line = true) : scriptLine n line = .ok [] :=
  if_pos ((scriptSkips_iff line).1 h)

theorem scriptLine_of_not_skips {n : Nat} {line : Text} (h : ¬ scriptSkips line = true) :
    scriptLine n line = (numberedLine n line).map ([·]) :=
  if_neg (mt (scriptSkips_iff line).2 h)

/-- The first line of a script and then the lines after it (R56). -/
theorem scriptFrom_cons (n : Nat) (line : Text) (rest : List Text) :
    scriptFrom n (line :: rest) = (do
      let here ← scriptLine n line
      let last ← scriptFrom (n + 1) rest
      pure (here ++ last)) := by
  by_cases hskip : scriptSkips line = true
  · rw [scriptFrom_skip n rest hskip, scriptLine_of_skips hskip]
    exact (bind_pure _).symm
  · rw [scriptLine_of_not_skips hskip]
    cases hline : numberedLine n line with
    | error r => simp only [scriptFrom, if_neg hskip, hline]; rfl
    | ok h => simp only [scriptFrom, if_neg hskip, hline]; rfl

/-- The lines of a script in two parts; the second is numbered on from the first. -/
theorem scriptFrom_append (n : Nat) (before rest : List Text) :
    scriptFrom n (before ++ rest) = (do
      let first ← scriptFrom n before
      let last ← scriptFrom (n + before.length) rest
      pure (first ++ last)) := by
  induction before generalizing n with
  | nil => exact (bind_pure _).symm
  | cons line before ih =>
    have hnumber : n + (before.length + 1) = n + 1 + before.length := by omega
    rw [List.cons_append, scriptFrom_cons, scriptFrom_cons, ih, List.length_cons, hnumber]
    simp only [bind_assoc, pure_bind, List.append_assoc]

/-- Settles O53: the integers are looked at before the ref, and a refused line refuses the script from it on. -/
theorem refusedLineIsNamedWithItsLine : Obligations.RefusedLineIsNamedWithItsLine := by
  refine ⟨fun k line kw x a hk hkw ht ha => ?regInt, fun line kw x a b hkw ht => ?rand,
    fun line r before after hs hline hbefore => ?script⟩
  case regInt =>
    obtain ⟨mk, hmk⟩ := keywordLine_regInt hk x a
    rw [assembleLine_of_tokens ht hkw, hmk, regIntLine_of_refused ha]
  case rand =>
    have hline : assembleLine line = randLine x a b := assembleLine_of_tokens ht hkw
    rw [hline]
    refine ⟨randLine_of_refused, fun ha hb => ?_⟩
    obtain ⟨m, hm⟩ := Option.isSome_iff_exists.1 ha
    rw [randLine_of_unsignedInt hm, regIntLine_of_refused hb]
  case script =>
    have hbefore' : scriptFrom 1 before = .ok hs := hbefore
    rw [scriptLines, scriptFrom_append, hbefore', scriptFrom_refused _ after hline, Nat.add_comm]
    rfl

/-- Settles O55: the lines before, the line itself, and the lines after it, under their numbers. -/
theorem scriptSkipsOnlyBlankAndCommentLines : Obligations.ScriptSkipsOnlyBlankAndCommentLines := by
  refine ⟨fun _ => rfl, fun n line before after => ?_⟩
  rw [scriptFrom_append, scriptFrom_cons]
  simp only [bind_assoc, pure_bind, List.append_assoc, scriptLine]

end Sys2Proof.Machine
